-- ==== Sys2Proof/Word.lean ====
section
/-! DEFINITION. The bit vectors of the machine: a word is 32 bits (R14, R58), an
immediate 16 bits, an opcode or a flags field 8 bits (R80). -/

namespace Sys2Proof

/-- One 32-bit word: a stack word, a global, an array element, an instruction (R14, R50). -/
abbrev Word := BitVec 32

/-- The immediate field of an instruction (R80). -/
abbrev Imm := BitVec 16

/-- An opcode field, a flags field, or one byte of a packed image (R57, R80). -/
abbrev Byte := BitVec 8

end Sys2Proof
end

