-- ==== Sys2Proof/Config.lean ====
section
/-! DEFINITION. The implementation parameters of R7 to R13 as one record, its default value,
and the two free values of the model: the answers of the I/O port (R160, D21) and the
elapsed time of a run (R213, D33). -/

namespace Sys2Proof

/-- The 33 operations of R2, in the order of the opcode map of R86. A comparison has one
operation and two instruction forms (R83). -/
inductive Operation where
  | halt | push | pop | add | sub | mul | div | call | ret
  | digitalWrite | digitalRead | analogWrite | analogRead | delay
  | buttonPressed | buttonReleased | pinMode | printf | millis | micros
  | eq | ne | lt | gt | le | ge
  | jmp | jmpTrue | jmpFalse
  | loadGlobal | storeGlobal | loadArray | storeArray
  deriving DecidableEq, Repr

/-- Every operation, once (R2: exactly 33). -/
def Operation.all : List Operation :=
  [.halt, .push, .pop, .add, .sub, .mul, .div, .call, .ret] ++
  [.digitalWrite, .digitalRead, .analogWrite, .analogRead, .delay,
   .buttonPressed, .buttonReleased, .pinMode, .printf, .millis, .micros] ++
  [.eq, .ne, .lt, .gt, .le, .ge] ++
  [.jmp, .jmpTrue, .jmpFalse] ++
  [.loadGlobal, .storeGlobal, .loadArray, .storeArray]

/-- The byte order of a packed image, parameter `IMAGE_ENDIAN` (R13, R57). -/
inductive Endian where
  | big
  | little
  deriving DecidableEq, Repr

/-- The configuration record of R7 to R13: what is fixed for the machine's lifetime (R41). -/
structure Config where
  /-- `STACK_CAPACITY`, in words (R7). -/
  stackCapacity : Nat
  /-- `GLOBAL_COUNT`, in words (R8). -/
  globalCount : Nat
  /-- `ARRAY_CAP[id]` at position `id`; `ARRAY_COUNT` is the list's length (R9). -/
  arrayCaps : List Nat
  /-- `PROG_MAX`, the largest instruction count LOAD accepts (R10). -/
  progMax : Nat
  /-- `PRINTF_MAX_ARGS` (R11). -/
  printfMaxArgs : Nat
  /-- `OPCODE_MAP`: the number of each operation (R12, R86). -/
  opcodeMap : List (Byte × Operation)
  /-- `FLAG_SIGNED`: the bit of `flags` that selects a signed comparison (R12, R83). -/
  flagSigned : Fin 8
  /-- `IMAGE_ENDIAN` (R13). -/
  imageEndian : Endian
  deriving DecidableEq, Repr

/-- `ARRAY_COUNT` (R9). -/
def Config.arrayCount (c : Config) : Nat := c.arrayCaps.length

/-- The core, arithmetic and call rows of R86. -/
def Config.coreRows : List (Byte × Operation) :=
  [(0x00, .halt), (0x01, .push), (0x02, .pop), (0x03, .add), (0x04, .sub),
   (0x05, .mul), (0x06, .div), (0x08, .call), (0x09, .ret)]

/-- The I/O rows of R86. -/
def Config.ioRows : List (Byte × Operation) :=
  [(0x10, .digitalWrite), (0x11, .digitalRead), (0x12, .analogWrite), (0x13, .analogRead),
   (0x14, .delay), (0x15, .buttonPressed), (0x16, .buttonReleased), (0x17, .pinMode),
   (0x18, .printf), (0x19, .millis), (0x1A, .micros)]

/-- The comparison rows of R86. -/
def Config.compareRows : List (Byte × Operation) :=
  [(0x20, .eq), (0x21, .ne), (0x22, .lt), (0x23, .gt), (0x24, .le), (0x25, .ge)]

/-- The jump and memory rows of R86. -/
def Config.jumpAndMemoryRows : List (Byte × Operation) :=
  [(0x30, .jmp), (0x31, .jmpTrue), (0x32, .jmpFalse),
   (0x50, .loadGlobal), (0x51, .storeGlobal), (0x54, .loadArray), (0x55, .storeArray)]

/-- The default parameters: R7 (4096), R8 (64), R9 (16 arrays of 64), R10 (65536), R11 (8),
R12 and R86 (the opcode numbers, flag bit 0), R13 (big-endian). -/
def Config.cvm32 : Config where
  stackCapacity := 4096
  globalCount := 64
  arrayCaps := List.replicate 16 64
  progMax := 65536
  printfMaxArgs := 8
  opcodeMap := Config.coreRows ++ Config.ioRows ++ Config.compareRows ++ Config.jumpAndMemoryRows
  flagSigned := 0
  imageEndian := .big

/-- One request on the I/O port: the kind and the request words of the table in R160. -/
inductive IoRequest where
  | digitalWrite (pin value : Word)
  | digitalRead (pin : Word)
  | analogWrite (pin value : Word)
  | analogRead (pin : Word)
  | delay (ms : Word)
  | pinMode (pin mode : Word)
  | buttonPressed (pin : Word)
  | buttonReleased (pin : Word)
  | printf (stringId : Word) (n : Nat) (args : List Word)
  | millis
  | micros
  deriving DecidableEq, Repr

/-- The port's answer (R160). `ok v` stands for `ok(v)` and, for a request whose answer
carries no value, for `ok`: the word `v` is then read by nothing (assumption log 5). -/
inductive IoAnswer where
  | ok (v : Word)
  | fail
  deriving DecidableEq, Repr, Inhabited

/-- FREE VALUE (R160, D21, U9; assumption log 4): the answer of the I/O agent to draw number
`n`, when that draw is for the request `r`. Nothing constrains it. -/
opaque Config.ioAnswer (n : Nat) (r : IoRequest) : IoAnswer

/-- FREE VALUE (R213, D33, U22; assumption log 6): the `elapsed_ms` the environment supplies
at draw number `n`. -/
opaque Config.elapsedMs (n : Nat) : Nat

end Sys2Proof
end

