-- ==== Sys2Proof/Syntax.lean ====
section
/-! DEFINITION. The instruction forms: one constructor for each of the 39 rows of
spec/opcode_table.json (R2, R82, R83, R86). -/

namespace Sys2Proof

/-- An instruction form with the operand R82 gives it. A comparison's signed form (R83) is a
constructor of its own; bits that no form reads (R84, R85) are not part of an instruction. -/
inductive Instr where
  | halt
  | push (imm : Imm)
  | pop
  | add
  | sub
  | mul
  | div
  | call (target : Imm)
  | ret
  | digitalWrite
  | digitalRead
  | analogWrite
  | analogRead
  | delay
  | buttonPressed
  | buttonReleased
  | pinMode
  | printf (stringId : Imm)
  | millis
  | micros
  | eq
  | eqSigned
  | ne
  | neSigned
  | lt
  | ltSigned
  | gt
  | gtSigned
  | le
  | leSigned
  | ge
  | geSigned
  | jmp (target : Imm)
  | jmpTrue (target : Imm)
  | jmpFalse (target : Imm)
  | loadGlobal (index : Imm)
  | storeGlobal (index : Imm)
  | loadArray (id : Imm)
  | storeArray (id : Imm)
  deriving DecidableEq, Repr

/-- The operation a form belongs to (R2, R86). -/
def Instr.operation : Instr → Operation
  | .halt => .halt
  | .push _ => .push
  | .pop => .pop
  | .add => .add
  | .sub => .sub
  | .mul => .mul
  | .div => .div
  | .call _ => .call
  | .ret => .ret
  | .digitalWrite => .digitalWrite
  | .digitalRead => .digitalRead
  | .analogWrite => .analogWrite
  | .analogRead => .analogRead
  | .delay => .delay
  | .buttonPressed => .buttonPressed
  | .buttonReleased => .buttonReleased
  | .pinMode => .pinMode
  | .printf _ => .printf
  | .millis => .millis
  | .micros => .micros
  | .eq => .eq
  | .eqSigned => .eq
  | .ne => .ne
  | .neSigned => .ne
  | .lt => .lt
  | .ltSigned => .lt
  | .gt => .gt
  | .gtSigned => .gt
  | .le => .le
  | .leSigned => .le
  | .ge => .ge
  | .geSigned => .ge
  | .jmp _ => .jmp
  | .jmpTrue _ => .jmpTrue
  | .jmpFalse _ => .jmpFalse
  | .loadGlobal _ => .loadGlobal
  | .storeGlobal _ => .storeGlobal
  | .loadArray _ => .loadArray
  | .storeArray _ => .storeArray

end Sys2Proof
end

