-- ==== Sys2Proof/WellFormed.lean ====
section
/-! DEFINITION. The constraints the spec puts on the parameters (R7 to R12), one check each,
and when an instruction has an encoding under a configuration. -/

namespace Sys2Proof

/-- R7: `1 <= STACK_CAPACITY <= 2^31 - 1`. -/
abbrev Config.StackOk (c : Config) : Prop := 1 ≤ c.stackCapacity ∧ c.stackCapacity ≤ 2 ^ 31 - 1

/-- R8: `1 <= GLOBAL_COUNT <= 256`. -/
abbrev Config.GlobalsOk (c : Config) : Prop := 1 ≤ c.globalCount ∧ c.globalCount ≤ 256

/-- R9: `0 <= ARRAY_COUNT <= 65536`. -/
abbrev Config.ArrayCountOk (c : Config) : Prop := c.arrayCount ≤ 65536

/-- R9: `1 <= ARRAY_CAP[id] <= 65536` for every array. -/
abbrev Config.ArrayCapsOk (c : Config) : Prop := ∀ n ∈ c.arrayCaps, 1 ≤ n ∧ n ≤ 65536

/-- R10: `1 <= PROG_MAX <= 2^31 - 1`. -/
abbrev Config.ProgMaxOk (c : Config) : Prop := 1 ≤ c.progMax ∧ c.progMax ≤ 2 ^ 31 - 1

/-- R11: `0 <= PRINTF_MAX_ARGS < STACK_CAPACITY`. -/
abbrev Config.PrintfOk (c : Config) : Prop := c.printfMaxArgs < c.stackCapacity

/-- R12, R89: no opcode number is given twice. -/
abbrev Config.OpcodesDistinct (c : Config) : Prop := (c.opcodeMap.map Prod.fst).Nodup

/-- R12: no operation has two numbers. -/
abbrev Config.OperationsDistinct (c : Config) : Prop := (c.opcodeMap.map Prod.snd).Nodup

/-- R12: each of the 33 operations has a number. -/
abbrev Config.OpcodesComplete (c : Config) : Prop :=
  ∀ o ∈ Operation.all, o ∈ c.opcodeMap.map Prod.snd

/-- The configuration meets every constraint of R7 to R12. -/
structure Config.WellFormed (c : Config) : Prop where
  stack : c.StackOk
  globals : c.GlobalsOk
  arrayCount : c.ArrayCountOk
  arrayCaps : c.ArrayCapsOk
  progMax : c.ProgMaxOk
  printf : c.PrintfOk
  opcodesDistinct : c.OpcodesDistinct
  operationsDistinct : c.OperationsDistinct
  opcodesComplete : c.OpcodesComplete

/-- The instruction has an encoding under `c`: the map gives its operation a number (R12). -/
abbrev Instr.WellFormed (c : Config) (i : Instr) : Prop :=
  i.operation ∈ c.opcodeMap.map Prod.snd

end Sys2Proof
end

