-- ==== Sys2Proof/Decode.lean ====
section
/-! DEFINITION. The one 32-bit format (R80, R81), the decode function of R90, the canonical
encoder of R94, the assembly form of R92, and the packed image of R57. -/

namespace Sys2Proof

/-- The three raw fields of an instruction word (R80). -/
structure Fields where
  opcode : Byte
  flags : Byte
  imm : Imm
  deriving DecidableEq, Repr

/-- R80: `opcode` is bits 31:24, `flags` 23:16, `imm` 15:0. -/
def unpack (w : Word) : Fields where
  opcode := w.extractLsb' 24 8
  flags := w.extractLsb' 16 8
  imm := w.extractLsb' 0 16

/-- R80: `word = opcode ++ flags ++ immediate`. -/
def pack (f : Fields) : Word := f.opcode ++ f.flags ++ f.imm

/-- Why a word is not an instruction, or a byte sequence no word. -/
inductive Reject where
  /-- R88: the opcode field is not a number of the map. -/
  | invalidOpcode (opcode : Byte)
  /-- Fewer than the four bytes of one packed instruction remain (R57). -/
  | truncatedImage
  deriving DecidableEq, Repr

/-- R90, the last three lines: the form of operation `o`, with `signed` read only by a
comparison (R83) and `imm` only by the operations that take one (R82). -/
def formOf (o : Operation) (signed : Bool) (imm : Imm) : Instr :=
  match o with
  | .halt => .halt
  | .push => .push imm
  | .pop => .pop
  | .add => .add
  | .sub => .sub
  | .mul => .mul
  | .div => .div
  | .call => .call imm
  | .ret => .ret
  | .digitalWrite => .digitalWrite
  | .digitalRead => .digitalRead
  | .analogWrite => .analogWrite
  | .analogRead => .analogRead
  | .delay => .delay
  | .buttonPressed => .buttonPressed
  | .buttonReleased => .buttonReleased
  | .pinMode => .pinMode
  | .printf => .printf imm
  | .millis => .millis
  | .micros => .micros
  | .eq => if signed then .eqSigned else .eq
  | .ne => if signed then .neSigned else .ne
  | .lt => if signed then .ltSigned else .lt
  | .gt => if signed then .gtSigned else .gt
  | .le => if signed then .leSigned else .le
  | .ge => if signed then .geSigned else .ge
  | .jmp => .jmp imm
  | .jmpTrue => .jmpTrue imm
  | .jmpFalse => .jmpFalse imm
  | .loadGlobal => .loadGlobal imm
  | .storeGlobal => .storeGlobal imm
  | .loadArray => .loadArray imm
  | .storeArray => .storeArray imm

/-- `OPCODE_MAP.lookup` (R90). -/
def Config.operationAt (c : Config) (opcode : Byte) : Option Operation :=
  c.opcodeMap.lookup opcode

/-- The flag bit that selects a signed comparison (R83). -/
def Config.isSigned (c : Config) (flags : Byte) : Bool := flags.getLsbD c.flagSigned

/-- R90 on the raw fields. -/
def decodeFields (c : Config) (f : Fields) : Except Reject Instr :=
  match c.operationAt f.opcode with
  | none => .error (.invalidOpcode f.opcode)
  | some o => .ok (formOf o (c.isSigned f.flags) f.imm)

/-- R90: `Decode(w)`, total on every word (R89). -/
def decode (c : Config) (w : Word) : Except Reject Instr := decodeFields c (unpack w)

/-- The number the map gives an operation (R12). -/
def Config.opcodeOf (c : Config) (o : Operation) : Option Byte :=
  (c.opcodeMap.find? (fun p => p.2 == o)).map Prod.fst

/-- Whether the form is one of the six signed comparisons (R83). -/
def Instr.isSigned : Instr → Bool
  | .eqSigned | .neSigned | .ltSigned | .gtSigned | .leSigned | .geSigned => true
  | .halt | .push _ | .pop | .add | .sub | .mul | .div | .call _ | .ret => false
  | .digitalWrite | .digitalRead | .analogWrite | .analogRead | .delay => false
  | .buttonPressed | .buttonReleased | .pinMode | .printf _ | .millis | .micros => false
  | .eq | .ne | .lt | .gt | .le | .ge => false
  | .jmp _ | .jmpTrue _ | .jmpFalse _ => false
  | .loadGlobal _ | .storeGlobal _ | .loadArray _ | .storeArray _ => false

/-- The immediate of a form, 0 for a form that has none (R82, R94). -/
def Instr.immediate : Instr → Imm
  | .push n | .call n | .printf n | .jmp n | .jmpTrue n | .jmpFalse n => n
  | .loadGlobal n | .storeGlobal n | .loadArray n | .storeArray n => n
  | .halt | .pop | .add | .sub | .mul | .div | .ret => 0
  | .digitalWrite | .digitalRead | .analogWrite | .analogRead | .delay => 0
  | .buttonPressed | .buttonReleased | .pinMode | .millis | .micros => 0
  | .eq | .ne | .lt | .gt | .le | .ge => 0
  | .eqSigned | .neSigned | .ltSigned | .gtSigned | .leSigned | .geSigned => 0

/-- The canonical flags field: only `FLAG_SIGNED`, and only for a signed comparison (R94). -/
def Config.canonicalFlags (c : Config) (signed : Bool) : Byte :=
  if signed then 1#8 <<< c.flagSigned.val else 0

/-- R94: the canonical word of an instruction, none where the map gives its operation no
number. -/
def encode (c : Config) (i : Instr) : Option Word :=
  (c.opcodeOf i.operation).map fun b =>
    pack { opcode := b, flags := c.canonicalFlags i.isSigned, imm := i.immediate }

/-- R94: the word is the canonical encoding of what it decodes to. -/
def isCanonical (c : Config) (w : Word) : Bool :=
  match decode c w with
  | .error _ => false
  | .ok i => encode c i == some w

/-- The name of an operation (R86). -/
def Operation.name : Operation → String
  | .halt => "HALT" | .push => "PUSH" | .pop => "POP"
  | .add => "ADD" | .sub => "SUB" | .mul => "MUL" | .div => "DIV"
  | .call => "CALL" | .ret => "RET"
  | .digitalWrite => "DIGITAL_WRITE" | .digitalRead => "DIGITAL_READ"
  | .analogWrite => "ANALOG_WRITE" | .analogRead => "ANALOG_READ" | .delay => "DELAY"
  | .buttonPressed => "BUTTON_PRESSED" | .buttonReleased => "BUTTON_RELEASED"
  | .pinMode => "PIN_MODE" | .printf => "PRINTF" | .millis => "MILLIS" | .micros => "MICROS"
  | .eq => "EQ" | .ne => "NE" | .lt => "LT" | .gt => "GT" | .le => "LE" | .ge => "GE"
  | .jmp => "JMP" | .jmpTrue => "JMP_TRUE" | .jmpFalse => "JMP_FALSE"
  | .loadGlobal => "LOAD_GLOBAL" | .storeGlobal => "STORE_GLOBAL"
  | .loadArray => "LOAD_ARRAY" | .storeArray => "STORE_ARRAY"

/-- The operations whose number is written (R82, R92). -/
def Operation.takesNumber (o : Operation) : Bool :=
  o ∈ [.push, .call, .printf, .jmp, .jmpTrue, .jmpFalse,
    .loadGlobal, .storeGlobal, .loadArray, .storeArray]

/-- The mnemonic of a form: the suffix marks a signed comparison (R92). -/
def Instr.mnemonic (i : Instr) : String :=
  i.operation.name ++ if i.isSigned then "_SIGNED" else ""

/-- One instruction as the spec's listings write it (R92). -/
def Instr.assembly (i : Instr) : String :=
  if i.operation.takesNumber then i.mnemonic ++ " " ++ toString i.immediate.toNat else i.mnemonic

/-- A program as the spec's listings write it (R92). -/
def assembly (program : List Instr) : String := String.intercalate "; " (program.map Instr.assembly)

/-- The instruction a mnemonic and its number, if one is written, stand for (R92): the number
is written exactly where R92 says so, and is at most 65535. -/
def assemble (mnemonic : String) (number : Option Nat) : Option Instr :=
  let forms := Operation.all.flatMap fun o =>
    [formOf o false (BitVec.ofNat 16 (number.getD 0)), formOf o true (BitVec.ofNat 16 (number.getD 0))]
  forms.find? fun i =>
    i.mnemonic == mnemonic && i.operation.takesNumber == number.isSome && number.getD 0 < 65536

/-- R57: the four bytes of one packed instruction, in the byte order of the parameter. -/
def packBytes (e : Endian) (w : Word) : List Byte :=
  let bytes := [w.extractLsb' 24 8, w.extractLsb' 16 8, w.extractLsb' 8 8, w.extractLsb' 0 8]
  match e with
  | .big => bytes
  | .little => bytes.reverse

/-- The word of four bytes given most significant first (R57). -/
def joinBytes (b3 b2 b1 b0 : Byte) : Word := b3 ++ b2 ++ b1 ++ b0

/-- R57: the first packed instruction of a byte sequence and the bytes after it. -/
def unpackBytes (e : Endian) : List Byte → Except Reject (Word × List Byte)
  | b3 :: b2 :: b1 :: b0 :: rest =>
    match e with
    | .big => .ok (joinBytes b3 b2 b1 b0, rest)
    | .little => .ok (joinBytes b0 b1 b2 b3, rest)
  | _ => .error .truncatedImage

/-- R57: the instruction section of a packed image (its header and strings are open, N4). -/
def packProgram (e : Endian) : List Word → List Byte
  | [] => []
  | w :: ws => packBytes e w ++ packProgram e ws

/-- R57: `count` instructions read from a byte sequence, with the bytes after them; the
`count` is the header's (N4). -/
def unpackProgram (e : Endian) : Nat → List Byte → Except Reject (List Word × List Byte)
  | 0, bytes => .ok ([], bytes)
  | n + 1, bytes =>
    match unpackBytes e bytes with
    | .error r => .error r
    | .ok (w, rest) =>
      match unpackProgram e n rest with
      | .error r => .error r
      | .ok (ws, rest') => .ok (w :: ws, rest')

/-- The instruction word the opcode table numbers with `nbits` bits: the program store holds
whole 32-bit words (R51), so the bits above `nbits` are zero. -/
def tableWord (nbits w : Nat) : Word := BitVec.ofNat 32 (w % 2 ^ nbits)

/-- The instruction the decoder reads, under the default parameters, from the word whose low
`nbits` bits are `w`; none where it rejects. -/
def decodeTableWord (nbits w : Nat) : Option Instr :=
  match decode Config.cvm32 (tableWord nbits w) with
  | .ok i => some i
  | .error _ => none

end Sys2Proof
end

