-- ==== Sys2Proof/Machine/State.lean ====
section
/-! DEFINITION. The state of the block as plain data (R21 to R39), the environment's side of
its ports, and the state after POWER_ON (R230, R231). -/

namespace Sys2Proof.Machine

/-- A data cell. The constructor is the space, so no index of one space reaches another
(R50); the program space is not a data space and has no cell here (R51). -/
inductive Addr where
  /-- `stack[i]` (R26). -/
  | stack (i : Nat)
  /-- `global[i]` (R36). -/
  | global (i : Nat)
  /-- `array[id][i]` (R37). -/
  | array (id i : Nat)
  deriving DecidableEq, Repr

/-- The contents of the stack, the globals and the arrays: the cells that do not hold
`0x00000000`, each once, in the order of `Addr.lt` (assumption log 2). -/
abbrev Memory := List (Addr × Word)

/-- The error enumeration of R191. -/
inductive ErrorCode where
  | none
  | stackOverflow
  | stackUnderflow
  | invalidOpcode
  | memoryBounds
  | divisionByZero
  | invalidJump
  | ioFailure
  | programNotLoaded
  deriving DecidableEq, Repr

/-- What the block asks of the I/O agent besides the eleven requests: `initialize_hardware()`
at POWER_ON (R230), the reinitialisation at RESET (R232), the safe state at teardown (R243). -/
inductive AgentOrder where
  | initialise
  | reinitialise
  | makeSafe
  deriving DecidableEq, Repr

/-- One thing the block puts out: a transaction on the I/O port with the answer it got
(R160), an order to the I/O agent, or an event on the observer port (R215 to R217). -/
inductive Output where
  | request (r : IoRequest) (a : IoAnswer)
  | agent (o : AgentOrder)
  /-- `InstructionEvent(index, opcode, operand)` (R215). -/
  | instruction (index : Word) (opcode : Byte) (operand : Imm)
  /-- `CompletionEvent(total_instructions, elapsed_ms)` (R216). -/
  | completion (total : Word) (elapsedMs : Nat)
  /-- `ResetEvent` (R217). -/
  | reset
  deriving DecidableEq, Repr

/-- The MODEL'S OWN side of the two ports (assumption log 4): not state of the block (R40,
R218), and read by no rule of it but the answer of an I/O request. -/
structure Ports where
  /-- The answers the I/O agent will give next, first one first. -/
  answers : List IoAnswer
  /-- How many free values have been drawn; the next draw's number. -/
  draws : Nat
  /-- Everything the block has put out, newest first (R65). -/
  trace : List Output
  deriving DecidableEq, Repr

/-- The state of the block. -/
structure State where
  /-- The parameters (R7 to R13); no step writes them (R41, assumption log 1). -/
  cfg : Config
  /-- The program counter, an instruction index in 32 bits (R21). -/
  pc : Word
  /-- The number of words on the stack (R25). -/
  sp : Nat
  /-- `stack`, `global` and `array` (R26, R36, R37). -/
  mem : Memory
  /-- `halted` (R29). -/
  halted : Bool
  /-- `last_error` (R30). -/
  lastError : ErrorCode
  /-- `prog_loaded` (R34). -/
  progLoaded : Bool
  /-- `prog[0 .. prog_len - 1]`; `prog_len` is its length (R32, R33). -/
  prog : List Word
  /-- `instr_count` (R35). -/
  instrCount : Word
  /-- `mem_op_count` (R38). -/
  memOpCount : Word
  /-- `io_op_count` (R39). -/
  ioOpCount : Word
  /-- A RUN command is in progress (R237, R246; assumption log 3). -/
  running : Bool
  /-- The environment's side of the ports. -/
  ports : Ports
  deriving DecidableEq, Repr

/-- Where the spec gives the machine no behaviour at all. No instruction and no step raises
one of these: an instruction that cannot complete fails into a next state (R200). -/
inductive Fault where
  /-- Raised by the host commands alone, when a command is issued while a RUN is in progress:
  a stuck state (R246, U1). Safe: the model stops where the spec gives no behaviour. -/
  | overlappingCommand
  /-- Raised by the host commands alone, when a command other than POWER_ON is issued to a
  block that is off, or POWER_ON to one that is on (R242, R243). Safe: as above. -/
  | illegalCommand
  deriving DecidableEq, Repr

/-- Why the model has no meaning for an instruction. -/
inductive Refusal where
  /-- An instruction the model gives no meaning yet, by its mnemonic. No arm of exec raises
  it. Safe: the model stops. -/
  | notModelled (mnemonic : String)
  deriving DecidableEq, Repr

/-- The ports right after POWER_ON: no answer waiting, nothing drawn, and the I/O agent
initialised (R230, R241). -/
def Ports.reset : Ports where
  answers := []
  draws := 0
  trace := [.agent .initialise]

/-- R230, R231: everything zero, no program, no error, and the given parameters and ports. -/
def State.powerOn (cfg : Config) (ports : Ports) : State where
  cfg := cfg
  pc := 0
  sp := 0
  mem := []
  halted := false
  lastError := .none
  progLoaded := false
  prog := []
  instrCount := 0
  memOpCount := 0
  ioOpCount := 0
  running := false
  ports := ports

/-- The machine right after POWER_ON with the default parameters (R230, R231). -/
def State.reset : State := State.powerOn Config.cvm32 Ports.reset

end Sys2Proof.Machine
end

