-- ==== Sys2Proof/Machine/Ops.lean ====
section
/-! DEFINITION. The operations every rule is written with: reading and writing one cell (R58),
the stack primitives `need`, `room`, `peek`, `drop`, `push` of 00_scope.md section 5, the
failure of an instruction (R200) and its completion (R22), the I/O port (R160), the observer
port (R215, R216), and the return from a failure: RESET (R232) and LOAD (R233). -/

namespace Sys2Proof.Machine

/-! ### Data cells -/

/-- The order of the cells in a memory: the stack, then the globals, then the arrays by number
and index. It only fixes the canonical form (assumption log 2). -/
def Addr.lt : Addr → Addr → Bool
  | .stack i, .stack j => i < j
  | .stack _, .global _ => true
  | .stack _, .array _ _ => true
  | .global _, .stack _ => false
  | .global i, .global j => i < j
  | .global _, .array _ _ => true
  | .array _ _, .stack _ => false
  | .array _ _, .global _ => false
  | .array a i, .array b j => a < b || (a == b && i < j)

/-- What an unlisted cell reads as: `0x00000000`, the reset value of every cell (R231). -/
def Memory.unlisted : Word := 0

/-- `MemRead`: the word of one cell (R58). -/
def Memory.read : Memory → Addr → Word
  | [], _ => Memory.unlisted
  | (b, v) :: rest, a => if a = b then v else Memory.read rest a

/-- Puts a cell in its place in the order. -/
def Memory.insert (a : Addr) (w : Word) : Memory → Memory
  | [] => [(a, w)]
  | (b, v) :: rest =>
    if a.lt b then (a, w) :: (b, v) :: rest else (b, v) :: Memory.insert a w rest

/-- `MemWrite`: exactly one cell changes (R55); writing what an unlisted cell reads as removes
the entry. -/
def Memory.write (m : Memory) (a : Addr) (w : Word) : Memory :=
  let others := m.filter fun c => c.1 ≠ a
  if w = Memory.unlisted then others else Memory.insert a w others

/-- Whether the cell is a stack word. -/
def Addr.isStack : Addr → Bool
  | .stack _ => true
  | .global _ => false
  | .array _ _ => false

/-- Every stack word becomes zero, every other cell stays (R231, the LOAD column). -/
def Memory.clearStack (m : Memory) : Memory := m.filter fun c => !c.1.isStack

/-- The canonical form: cells strictly rising, none holding what an unlisted cell reads as. -/
abbrev Memory.wf (m : Memory) : Prop :=
  m.Pairwise (fun x y => x.1.lt y.1 = true) ∧ ∀ c ∈ m, c.2 ≠ Memory.unlisted

/-- Whether the cell exists under the parameters (R26, R36, R37). -/
def cellExists (c : Config) : Addr → Bool
  | .stack i => i < c.stackCapacity
  | .global i => i < c.globalCount
  | .array id i =>
    match c.arrayCaps[id]? with
    | none => false
    | some cap => i < cap

/-! ### The stack and the counters -/

/-- `prog_len` (R33): the number of installed instructions. -/
abbrev State.progLen (s : State) : Nat := s.prog.length

/-- `peek(k)`: the word `k` below the top; used only after `need(k+1)`. -/
def State.peek (s : State) (k : Nat) : Word := s.mem.read (.stack (s.sp - 1 - k))

/-- `drop(n)`: the words left behind keep their patterns (R26). -/
def State.drop (s : State) (n : Nat) : State := { s with sp := s.sp - n }

/-- `push(w)`; used only after `room` has passed for it. -/
def State.push (s : State) (w : Word) : State :=
  { s with mem := s.mem.write (.stack s.sp) w, sp := s.sp + 1 }

/-- `MemWrite` on a global or an array element. -/
def State.store (s : State) (a : Addr) (w : Word) : State := { s with mem := s.mem.write a w }

/-- `pc <- t`. -/
def State.jump (s : State) (t : Word) : State := { s with pc := t }

/-- `halted <- 1` by HALT (R100). -/
def State.halt (s : State) : State := { s with halted := true }

/-- One completed memory operation (R38). -/
def State.countMemOp (s : State) : State := { s with memOpCount := s.memOpCount + 1 }

/-- One completed I/O operation (R39). -/
def State.countIoOp (s : State) : State := { s with ioOpCount := s.ioOpCount + 1 }

/-! ### How a rule ends -/

/-- An instruction rule completed, or executed `raise E`. The state of a raise is the state
before the rule, with the port's side of a request that was answered `fail` (R201). -/
inductive Result where
  | done (s : State)
  | raised (e : ErrorCode) (s : State)
  deriving DecidableEq, Repr

/-- `Fail(E)` (R200): taking a failure, the machine's one kind of trap. `pc` keeps the
successor index; nothing else changes. -/
def State.fail (e : ErrorCode) (s : State) : State := { s with lastError := e, halted := true }

/-- What the cycle does when the rule completed (R22, R30, R35). -/
def State.complete (s : State) : State :=
  { s with lastError := .none, instrCount := s.instrCount + 1 }

/-- The state in which a rule's cycle ends. -/
def Result.finish : Result → State
  | .done s => s.complete
  | .raised e s => s.fail e

/-- Every rule ends in a next state: completed, or failed as R200 says. -/
def settle (r : Result) : Host.Outcome State Fault Refusal := .next r.finish

/-- `need(n)`. -/
def need (n : Nat) (s : State) (rule : Result) : Result :=
  if s.sp < n then .raised .stackUnderflow s else rule

/-- `room(n)`. -/
def room (n : Nat) (s : State) (rule : Result) : Result :=
  if s.cfg.stackCapacity < s.sp + n then .raised .stackOverflow s else rule

/-- `if not ok then raise e`. -/
def check (ok : Bool) (e : ErrorCode) (s : State) (rule : Result) : Result :=
  if ok then rule else .raised e s

/-! ### The ports -/

/-- Puts one thing out (R65: in execution order). -/
def State.emit (o : Output) (s : State) : State :=
  { s with ports := { s.ports with trace := o :: s.ports.trace } }

/-- The answer the next request gets: the next one waiting, and where none waits a draw
(R160, D21; assumption log 4). -/
def Ports.answer (p : Ports) (r : IoRequest) : IoAnswer :=
  match p.answers with
  | [] => Config.ioAnswer p.draws r
  | a :: _ => a

/-- The ports once the request is answered: the answer is used up and the transaction put out. -/
def Ports.after (p : Ports) (r : IoRequest) : Ports :=
  { answers := p.answers.tail
    draws := if p.answers.isEmpty then p.draws + 1 else p.draws
    trace := .request r (p.answer r) :: p.trace }

/-- The state once the request is answered; nothing of the block has changed. -/
def State.asked (s : State) (r : IoRequest) : State := { s with ports := s.ports.after r }

/-- `IoReq(kind, args)` and the end of every I/O rule (R160, R167): on `fail` raise IoFailure;
on an answer the stack writes `writes`, then the count. -/
def transact (r : IoRequest) (s : State) (writes : Word → State → State) : Result :=
  match s.ports.answer r with
  | .fail => .raised .ioFailure (s.asked r)
  | .ok v => .done (writes v (s.asked r)).countIoOp

/-- The end of a RUN: one CompletionEvent with a drawn elapsed time (R213, R216). -/
def State.endRun (s : State) : State :=
  { s with
    running := false
    ports := { s.ports with
      draws := s.ports.draws + 1
      trace := .completion s.instrCount (Config.elapsedMs s.ports.draws) :: s.ports.trace } }

/-! ### Out of a failure: RESET and LOAD (R205) -/

/-- RESET (R232): the reset values of R231; the program, the parameters and the ports' side
are kept; the I/O agent is asked to reinitialise, then the ResetEvent is emitted. -/
def State.hostReset (s : State) : State :=
  let zeroed : State :=
    { s with
      pc := 0, sp := 0, mem := [], halted := false, lastError := .none
      instrCount := 0, memOpCount := 0, ioOpCount := 0 }
  (zeroed.emit (.agent .reinitialise)).emit .reset

/-- An accepted LOAD (R233): the globals and the arrays are kept. -/
def State.install (s : State) (words : List Word) : State :=
  { s with
    prog := words, progLoaded := true
    pc := 0, sp := 0, mem := s.mem.clearStack, halted := false, lastError := .none
    instrCount := 0, memOpCount := 0, ioOpCount := 0 }

/-- A rejected command: only `last_error` changes (R199). -/
def State.rejectCommand (s : State) : State := { s with lastError := .programNotLoaded }

end Sys2Proof.Machine
end

