-- ==== Sys2Proof/Machine/Operands.lean ====
section
/-! DEFINITION. How a word is read and written (00_scope.md section 5), where an instruction
takes its operands from (R20, R82, R110, R150), and the arithmetic and transfer shapes the
families share. -/

namespace Sys2Proof.Machine

/-- `u32(w)`: the word as an unsigned integer. -/
abbrev u32 (w : Word) : Nat := w.toNat

/-- `s32(w)`: the word in two's complement. -/
abbrev s32 (w : Word) : Int := w.toInt

/-- `wrap32(n)`: the pattern of an integer modulo `2^32`. -/
def wrap32 (n : Int) : Word := BitVec.ofInt 32 n

/-- `zext_32(imm)`: the only width conversion of the machine (R58, R82). -/
def zext32 (imm : Imm) : Word := imm.setWidth 32

/-- The shape of R110: `b` is the top word, `a` the word under it; both are removed and one
word is pushed. -/
def binary (f : Word → Word → Word) (s : State) : Result :=
  need 2 s (.done ((s.drop 2).push (f (s.peek 1) (s.peek 0))))

/-- ADD's result (R111, R116). -/
def addWords (a b : Word) : Word := wrap32 (s32 a + s32 b)

/-- SUB's result (R112, R116). -/
def subWords (a b : Word) : Word := wrap32 (s32 a - s32 b)

/-- MUL's result (R113, R116). -/
def mulWords (a b : Word) : Word := wrap32 (s32 a * s32 b)

/-- DIV's result for a non-zero divisor: the exact quotient rounded toward zero, wrapped
(R114, R115). -/
def divWords (a b : Word) : Word := wrap32 ((s32 a).tdiv (s32 b))

/-- Target validity (R140): unsigned, at full width, against `prog_len`. -/
def targetOk (s : State) (t : Word) : Bool := u32 t < s.progLen

/-- The condition word a conditional jump consumes, the jump taken exactly when `taken` says
so; a target not jumped to is not examined (R142, R143). -/
def conditional (taken : Word → Bool) (t : Word) (s : State) : Result :=
  need 1 s
    (check (!taken (s.peek 0) || targetOk s t) .invalidJump s
      (.done (if taken (s.peek 0) then (s.drop 1).jump t else s.drop 1)))

/-- The cell `global[zext_32(imm)]` (R150). -/
def globalCell (imm : Imm) : Addr := .global (u32 (zext32 imm))

/-- The cell `array[zext_32(imm)][u32(index)]` (R150). -/
def elementCell (id : Imm) (index : Word) : Addr := .array (u32 (zext32 id)) (u32 index)

/-- The bounds check of R63 and R150 for a global: the whole immediate, unsigned. -/
def globalOk (s : State) (imm : Imm) : Bool := cellExists s.cfg (globalCell imm)

/-- The bounds checks of R63 and R150 for an element: the array number, then the whole index
word, unsigned; both raise the same error. -/
def elementOk (s : State) (id : Imm) (index : Word) : Bool :=
  cellExists s.cfg (elementCell id index)

/-- The number of arguments PRINTF takes: the count word unsigned, clamped (R176, D20). -/
def printfCount (s : State) : Nat := min (u32 (s.peek 0)) s.cfg.printfMaxArgs

/-- `args[k] <- peek(n - k)` for `k` in `0 .. n-1` (R176). -/
def printfArgs (s : State) (n : Nat) : List Word := (List.range n).map fun k => s.peek (n - k)

end Sys2Proof.Machine
end

