-- ==== Sys2Proof/Machine/Flags.lean ====
section
/-! DEFINITION. The machine has no flags and no condition codes (R28). What stands in their
place: the truth word a comparison pushes and the relations it tests (R120), and how a
conditional jump reads a condition word (R142, R143). -/

namespace Sys2Proof.Machine

/-- The result word of a comparison: 1 or 0, nothing else (R120). -/
def truthWord (t : Bool) : Word := if t then 1 else 0

/-- The shape of R120: `a REL b` with `b` on top. -/
def compareWords (rel : Word → Word → Bool) (s : State) : Result :=
  binary (fun a b => truthWord (rel a b)) s

/-- R121. -/
def eqUnsigned (a b : Word) : Bool := u32 a == u32 b

/-- R122. -/
def neUnsigned (a b : Word) : Bool := u32 a != u32 b

/-- R123. -/
def ltUnsigned (a b : Word) : Bool := u32 a < u32 b

/-- R124. -/
def gtUnsigned (a b : Word) : Bool := u32 a > u32 b

/-- R125. -/
def leUnsigned (a b : Word) : Bool := u32 a ≤ u32 b

/-- R126. -/
def geUnsigned (a b : Word) : Bool := u32 a ≥ u32 b

/-- R127. -/
def eqSigned (a b : Word) : Bool := s32 a == s32 b

/-- R128. -/
def neSigned (a b : Word) : Bool := s32 a != s32 b

/-- R129. -/
def ltSigned (a b : Word) : Bool := s32 a < s32 b

/-- R130. -/
def gtSigned (a b : Word) : Bool := s32 a > s32 b

/-- R131. -/
def leSigned (a b : Word) : Bool := s32 a ≤ s32 b

/-- R132. -/
def geSigned (a b : Word) : Bool := s32 a ≥ s32 b

/-- JMP_TRUE jumps on any word but `0x00000000` (R142). -/
def isNonZero (c : Word) : Bool := c != 0

/-- JMP_FALSE jumps on `0x00000000` only (R143). -/
def isZero (c : Word) : Bool := c == 0

end Sys2Proof.Machine
end

