-- ==== Sys2Proof/Machine/Arithmetic.lean ====
section
/-! DEFINITION. ADD, SUB, MUL, DIV (41_arithmetic.md). -/

namespace Sys2Proof.Machine

/-- ADD (R111). -/
def execAdd (s : State) : Host.Outcome State Fault Refusal := settle (binary addWords s)

/-- SUB (R112). -/
def execSub (s : State) : Host.Outcome State Fault Refusal := settle (binary subWords s)

/-- MUL (R113). -/
def execMul (s : State) : Host.Outcome State Fault Refusal := settle (binary mulWords s)

/-- DIV (R114): the depth is tested before the divisor (R202). -/
def execDiv (s : State) : Host.Outcome State Fault Refusal :=
  settle (need 2 s (check (s.peek 0 != 0) .divisionByZero s (binary divWords s)))

end Sys2Proof.Machine
end

