-- ==== Sys2Proof/Machine/Comparison.lean ====
section
/-! DEFINITION. The twelve comparison forms (42_comparison.md). -/

namespace Sys2Proof.Machine

/-- EQ (R121). -/
def execEq (s : State) : Host.Outcome State Fault Refusal :=
  settle (compareWords eqUnsigned s)

/-- NE (R122). -/
def execNe (s : State) : Host.Outcome State Fault Refusal :=
  settle (compareWords neUnsigned s)

/-- LT (R123). -/
def execLt (s : State) : Host.Outcome State Fault Refusal :=
  settle (compareWords ltUnsigned s)

/-- GT (R124). -/
def execGt (s : State) : Host.Outcome State Fault Refusal :=
  settle (compareWords gtUnsigned s)

/-- LE (R125). -/
def execLe (s : State) : Host.Outcome State Fault Refusal :=
  settle (compareWords leUnsigned s)

/-- GE (R126). -/
def execGe (s : State) : Host.Outcome State Fault Refusal :=
  settle (compareWords geUnsigned s)

/-- EQ_SIGNED (R127). -/
def execEqSigned (s : State) : Host.Outcome State Fault Refusal :=
  settle (compareWords eqSigned s)

/-- NE_SIGNED (R128). -/
def execNeSigned (s : State) : Host.Outcome State Fault Refusal :=
  settle (compareWords neSigned s)

/-- LT_SIGNED (R129). -/
def execLtSigned (s : State) : Host.Outcome State Fault Refusal :=
  settle (compareWords ltSigned s)

/-- GT_SIGNED (R130). -/
def execGtSigned (s : State) : Host.Outcome State Fault Refusal :=
  settle (compareWords gtSigned s)

/-- LE_SIGNED (R131). -/
def execLeSigned (s : State) : Host.Outcome State Fault Refusal :=
  settle (compareWords leSigned s)

/-- GE_SIGNED (R132). -/
def execGeSigned (s : State) : Host.Outcome State Fault Refusal :=
  settle (compareWords geSigned s)

end Sys2Proof.Machine
end

