-- ==== Sys2Proof/Machine/ControlFlow.lean ====
section
/-! DEFINITION. JMP, JMP_TRUE, JMP_FALSE, CALL, RET (43_control_flow.md). On entry `pc` holds
the successor index (R22). -/

namespace Sys2Proof.Machine

/-- JMP (R141). -/
def execJmp (target : Imm) (s : State) : Host.Outcome State Fault Refusal :=
  settle (check (targetOk s (zext32 target)) .invalidJump s (.done (s.jump (zext32 target))))

/-- JMP_TRUE (R142). -/
def execJmpTrue (target : Imm) (s : State) : Host.Outcome State Fault Refusal :=
  settle (conditional isNonZero (zext32 target) s)

/-- JMP_FALSE (R143). -/
def execJmpFalse (target : Imm) (s : State) : Host.Outcome State Fault Refusal :=
  settle (conditional isZero (zext32 target) s)

/-- CALL (R144): room is tested before the target; the word pushed is the current `pc`, the
successor index. -/
def execCall (target : Imm) (s : State) : Host.Outcome State Fault Refusal :=
  settle (room 1 s (check (targetOk s (zext32 target)) .invalidJump s
    (.done ((s.push s.pc).jump (zext32 target)))))

/-- RET (R145): the target is the whole popped word, unsigned. -/
def execRet (s : State) : Host.Outcome State Fault Refusal :=
  settle (need 1 s (check (targetOk s (s.peek 0)) .invalidJump s
    (.done ((s.drop 1).jump (s.peek 0)))))

end Sys2Proof.Machine
end

