-- ==== Sys2Proof/Machine/IoOps.lean ====
section
/-! DEFINITION. The eleven I/O opcodes (45_io_ops.md): the stack checks, one request, then the
stack writes (R167). Arguments go to the port as full words; a result is pushed as received. -/

namespace Sys2Proof.Machine

/-- The shape of the operations with two arguments and no result: the last parameter is on top
(R167, R168, R170, R173). -/
def portWrite (request : Word → Word → IoRequest) (s : State) : Result :=
  need 2 s (transact (request (s.peek 1) (s.peek 0)) s fun _ t => t.drop 2)

/-- The shape of the operations with one argument and one result (R169, R171, R174, R175). -/
def portRead (request : Word → IoRequest) (s : State) : Result :=
  need 1 s (transact (request (s.peek 0)) s fun v t => (t.drop 1).push v)

/-- The shape of the operations with no argument and one result: room is tested before the
request (R177, R178). -/
def portSample (request : IoRequest) (s : State) : Result :=
  room 1 s (transact request s fun v t => t.push v)

/-- DIGITAL_WRITE (R168). -/
def execDigitalWrite (s : State) : Host.Outcome State Fault Refusal := settle (portWrite .digitalWrite s)

/-- DIGITAL_READ (R169). -/
def execDigitalRead (s : State) : Host.Outcome State Fault Refusal := settle (portRead .digitalRead s)

/-- ANALOG_WRITE (R170). -/
def execAnalogWrite (s : State) : Host.Outcome State Fault Refusal := settle (portWrite .analogWrite s)

/-- ANALOG_READ (R171). -/
def execAnalogRead (s : State) : Host.Outcome State Fault Refusal := settle (portRead .analogRead s)

/-- DELAY (R172): to a model without time a pop and one request. -/
def execDelay (s : State) : Host.Outcome State Fault Refusal :=
  settle (need 1 s (transact (.delay (s.peek 0)) s fun _ t => t.drop 1))

/-- PIN_MODE (R173). -/
def execPinMode (s : State) : Host.Outcome State Fault Refusal := settle (portWrite .pinMode s)

/-- BUTTON_PRESSED (R174). -/
def execButtonPressed (s : State) : Host.Outcome State Fault Refusal := settle (portRead .buttonPressed s)

/-- BUTTON_RELEASED (R175). -/
def execButtonReleased (s : State) : Host.Outcome State Fault Refusal := settle (portRead .buttonReleased s)

/-- PRINTF (R176): the count on top, its last argument under it, the string index in the
immediate; one word and the clamped count of words are removed. -/
def execPrintf (stringId : Imm) (s : State) : Host.Outcome State Fault Refusal :=
  settle (need 1 s (need (1 + printfCount s) s
    (transact (.printf (zext32 stringId) (printfCount s) (printfArgs s (printfCount s))) s
      fun _ t => t.drop (1 + printfCount s))))

/-- MILLIS (R177). -/
def execMillis (s : State) : Host.Outcome State Fault Refusal := settle (portSample .millis s)

/-- MICROS (R178). -/
def execMicros (s : State) : Host.Outcome State Fault Refusal := settle (portSample .micros s)

end Sys2Proof.Machine
end

