-- ==== Sys2Proof/Machine/MemoryOps.lean ====
section
/-! DEFINITION. LOAD_GLOBAL, STORE_GLOBAL, LOAD_ARRAY, STORE_ARRAY (44_memory_ops.md), their
checks in the order of R155 and R202. -/

namespace Sys2Proof.Machine

/-- LOAD_GLOBAL (R151): the bounds are tested before the room. -/
def execLoadGlobal (index : Imm) (s : State) : Host.Outcome State Fault Refusal :=
  settle (check (globalOk s index) .memoryBounds s
    (room 1 s (.done (s.push (s.mem.read (globalCell index))).countMemOp)))

/-- STORE_GLOBAL (R152): the value is popped. -/
def execStoreGlobal (index : Imm) (s : State) : Host.Outcome State Fault Refusal :=
  settle (need 1 s (check (globalOk s index) .memoryBounds s
    (.done ((s.drop 1).store (globalCell index) (s.peek 0)).countMemOp)))

/-- LOAD_ARRAY (R153). -/
def execLoadArray (id : Imm) (s : State) : Host.Outcome State Fault Refusal :=
  settle (need 1 s (check (elementOk s id (s.peek 0)) .memoryBounds s
    (.done ((s.drop 1).push (s.mem.read (elementCell id (s.peek 0)))).countMemOp)))

/-- STORE_ARRAY (R154): the value on top, the index under it. -/
def execStoreArray (id : Imm) (s : State) : Host.Outcome State Fault Refusal :=
  settle (need 2 s (check (elementOk s id (s.peek 1)) .memoryBounds s
    (.done ((s.drop 2).store (elementCell id (s.peek 1)) (s.peek 0)).countMemOp)))

end Sys2Proof.Machine
end

