-- ==== Sys2Proof/Machine/StackHalt.lean ====
section
/-! DEFINITION. HALT, PUSH, POP (40_stack_halt.md). -/

namespace Sys2Proof.Machine

/-- HALT (R100): it cannot fail; the cycle completes normally. -/
def execHalt (s : State) : Host.Outcome State Fault Refusal := settle (.done s.halt)

/-- PUSH (R101). -/
def execPush (imm : Imm) (s : State) : Host.Outcome State Fault Refusal :=
  settle (room 1 s (.done (s.push (zext32 imm))))

/-- POP (R102). -/
def execPop (s : State) : Host.Outcome State Fault Refusal :=
  settle (need 1 s (.done (s.drop 1)))

end Sys2Proof.Machine
end

