-- ==== Sys2Proof/Machine/Dispatch.lean ====
section
/-! DEFINITION. The dispatch of the decoded instruction to its rule (R22, R90). -/

namespace Sys2Proof.Machine

def exec (i : Instr) (s : State) : Host.Outcome State Fault Refusal :=
  match i with
  | .halt => Sys2Proof.Machine.execHalt s
  | .push imm => Sys2Proof.Machine.execPush imm s
  | .pop => Sys2Proof.Machine.execPop s
  | .add => Sys2Proof.Machine.execAdd s
  | .sub => Sys2Proof.Machine.execSub s
  | .mul => Sys2Proof.Machine.execMul s
  | .div => Sys2Proof.Machine.execDiv s
  | .call target => Sys2Proof.Machine.execCall target s
  | .ret => Sys2Proof.Machine.execRet s
  | .digitalWrite => Sys2Proof.Machine.execDigitalWrite s
  | .digitalRead => Sys2Proof.Machine.execDigitalRead s
  | .analogWrite => Sys2Proof.Machine.execAnalogWrite s
  | .analogRead => Sys2Proof.Machine.execAnalogRead s
  | .delay => Sys2Proof.Machine.execDelay s
  | .buttonPressed => Sys2Proof.Machine.execButtonPressed s
  | .buttonReleased => Sys2Proof.Machine.execButtonReleased s
  | .pinMode => Sys2Proof.Machine.execPinMode s
  | .printf stringId => Sys2Proof.Machine.execPrintf stringId s
  | .millis => Sys2Proof.Machine.execMillis s
  | .micros => Sys2Proof.Machine.execMicros s
  | .eq => Sys2Proof.Machine.execEq s
  | .eqSigned => Sys2Proof.Machine.execEqSigned s
  | .ne => Sys2Proof.Machine.execNe s
  | .neSigned => Sys2Proof.Machine.execNeSigned s
  | .lt => Sys2Proof.Machine.execLt s
  | .ltSigned => Sys2Proof.Machine.execLtSigned s
  | .gt => Sys2Proof.Machine.execGt s
  | .gtSigned => Sys2Proof.Machine.execGtSigned s
  | .le => Sys2Proof.Machine.execLe s
  | .leSigned => Sys2Proof.Machine.execLeSigned s
  | .ge => Sys2Proof.Machine.execGe s
  | .geSigned => Sys2Proof.Machine.execGeSigned s
  | .jmp target => Sys2Proof.Machine.execJmp target s
  | .jmpTrue target => Sys2Proof.Machine.execJmpTrue target s
  | .jmpFalse target => Sys2Proof.Machine.execJmpFalse target s
  | .loadGlobal index => Sys2Proof.Machine.execLoadGlobal index s
  | .storeGlobal index => Sys2Proof.Machine.execStoreGlobal index s
  | .loadArray id => Sys2Proof.Machine.execLoadArray id s
  | .storeArray id => Sys2Proof.Machine.execStoreArray id s

end Sys2Proof.Machine
end

