-- ==== Sys2Proof/Machine/Cycle.lean ====
section
/-! DEFINITION. The fetch-decode-execute cycle (R22, R203, R215) and one move of the engine:
the STEP command (R236), or one turn of RUN's loop while a RUN is in progress (R237). -/

namespace Sys2Proof.Machine

/-- The fetch (R51): the word `prog[pc]`, none when `pc >= prog_len`. -/
def State.fetch (s : State) : Option Word := s.prog[u32 s.pc]?

/-- `pc <- i + 1`, before dispatch (R22). -/
def State.advance (s : State) : State := { s with pc := s.pc + 1 }

/-- `FailNoInstr(InvalidJump)` (R203): `pc` stays, nothing is counted, no event. -/
def State.failNoInstr (s : State) : State := s.fail .invalidJump

/-- The InstructionEvent of the word fetched at `index` (R215). -/
def instructionEvent (index w : Word) : Output :=
  .instruction index (unpack w).opcode (unpack w).imm

/-- A stop stays a stop; a next state goes on to `f`. -/
def onNext (f : State → State) :
    Host.Outcome State Fault Refusal → Host.Outcome State Fault Refusal
  | .next s => .next (f s)
  | .fault r => .fault r
  | .refused r => .refused r

/-- Dispatch of the word `w` (R22): the decoded form's rule, or InvalidOpcode (R88, R194). -/
def dispatch (w : Word) (s : State) : Host.Outcome State Fault Refusal :=
  match decode s.cfg w with
  | .ok i => exec i s
  | .error _ => settle (.raised .invalidOpcode s)

/-- `Cycle()` (R22): fetch, advance, dispatch, then the event, completed or failed. -/
def cycle (s : State) : Host.Outcome State Fault Refusal :=
  match s.fetch with
  | none => .next s.failNoInstr
  | some w => onNext (State.emit (instructionEvent s.pc w)) (dispatch w s.advance)

/-- The end of one turn of RUN's loop (R237): a failed cycle and a HALT both leave `halted`
set, and end the RUN with its CompletionEvent; a STEP emits none (R216). -/
def State.afterCycle (s : State) : State :=
  if s.running && s.halted then s.endRun else s

/-- One move of the engine: rejected in Empty, nothing at all when halted, else one cycle
(R42, R206, R236). -/
def engineMove (s : State) : Host.Outcome State Fault Refusal :=
  if s.progLoaded then
    if s.halted then .next s else onNext State.afterCycle (cycle s)
  else .next s.rejectCommand

/-- Puts a word at an index of a program, filling any gap before it with zero words. -/
def placeWord (prog : List Word) (index : Nat) (w : Word) : List Word :=
  prog.take index ++ List.replicate (index - prog.length) 0 ++ w :: prog.drop (index + 1)

/-- The state with `w` as the instruction the next move fetches: stored at `pc`, a program
loaded and the machine not halted (assumption log 7). -/
def State.withProgramWord (s : State) (w : Word) : State :=
  { s with prog := placeWord s.prog (u32 s.pc) w, progLoaded := true, halted := false }

end Sys2Proof.Machine
end

