-- ==== Sys2Proof/Machine/Step.lean ====
section
/-! DEFINITION. The step of the machine: one move of its one agent, the engine (R3, R236). -/

namespace Sys2Proof.Machine

/-- One move of the engine (R236, R237). -/
def step (s : State) : Host.Outcome State Fault Refusal := engineMove s

/-- The state whose next step fetches the instruction whose low `nbits` bits are `w`
(assumption log 7: it stands for a LOAD). -/
def State.withFetchWord (s : State) (nbits w : Nat) : State :=
  s.withProgramWord (tableWord nbits w)

end Sys2Proof.Machine
end

