-- ==== Sys2Proof/Machine/HostCommands.lean ====
section
/-! DEFINITION. The host's side of the block (70_reset_and_hazards.md): the commands POWER_ON,
LOAD, RESET, STEP, RUN, RUN_PROGRAM and the teardown, what each reports, the run states of R42
and the status outputs of R239. -/

namespace Sys2Proof.Machine

/-- The run states of R42. -/
inductive RunState where
  | empty
  | ready
  | stopped
  | failed
  deriving DecidableEq, Repr

/-- The run state of a state (R42). -/
def State.runState (s : State) : RunState :=
  if s.progLoaded = false then .empty
  else if s.halted = false then .ready
  else if s.lastError = .none then .stopped
  else .failed

/-- What a command gives back to the host (R242). -/
inductive Report where
  /-- Nothing is reported (POWER_ON, RESET, teardown). -/
  | nothing
  | success
  | failure
  /-- STEP or RUN on a halted block, a failure status (R236, R237). -/
  | notExecuted
  /-- A RUN has begun and has not returned. -/
  | inProgress
  deriving DecidableEq, Repr

/-- What a move of the engine from `s` to `t` reports to the STEP or the RUN it belongs to
(R236, R237): a completed instruction has cleared the error, a failed one has set it. -/
def moveReport (s t : State) : Report :=
  if s.progLoaded = false then .failure
  else if s.halted then .notExecuted
  else if t.running then .inProgress
  else if t.lastError = .none then .success
  else .failure

/-- The host commands (R4, R230 to R238, R243). The words of a LOAD are absent (`none`) or a
list, whose length is `count`. The spec does not say who triggers the teardown of R243; that it
is a host command is DESIGN CHOICE (assumption log 22). -/
inductive Command where
  | powerOn
  | load (words : Option (List Word))
  | reset
  | step
  | run
  | runProgram (words : Option (List Word))
  | teardown
  deriving DecidableEq, Repr

/-- The block as the host finds it: off (before POWER_ON and after a teardown, when there is no
state, R242, R243), with only the environment's side kept; or on. -/
inductive Block where
  | off (cfg : Config) (ports : Ports)
  | on (s : State)
  deriving DecidableEq, Repr

/-- R234: LOAD accepts a program that is present, not empty and not longer than `PROG_MAX`. -/
def accepts (c : Config) (words : Option (List Word)) : Option (List Word) :=
  match words with
  | none => none
  | some ws => if ws.length = 0 ∨ c.progMax < ws.length then none else some ws

/-- LOAD (R233, R234). -/
def hostLoad (words : Option (List Word)) (s : State) : State × Report :=
  match accepts s.cfg words with
  | none => (s.rejectCommand, .failure)
  | some ws => (s.install ws, .success)

/-- RUN (R237): rejected in Empty, nothing when halted; otherwise the loop begins, and the
engine's moves are its turns. -/
def hostRun (s : State) : State × Report :=
  if s.progLoaded then
    if s.halted then (s, .notExecuted) else ({ s with running := true }, .inProgress)
  else (s.rejectCommand, .failure)

/-- RUN_PROGRAM (R238): LOAD and, if it was accepted, RUN. -/
def hostRunProgram (words : Option (List Word)) (s : State) : State × Report :=
  match hostLoad words s with
  | (t, .success) => hostRun t
  | (t, r) => (t, r)

/-- The ports with one more order to the I/O agent. -/
def Ports.order (p : Ports) (o : AgentOrder) : Ports := { p with trace := .agent o :: p.trace }

/-- A command on a block that is on and has no RUN in progress. That the teardown may come in
every run state is DESIGN CHOICE (assumption log 22). -/
def commandOn (c : Command) (s : State) : Host.Outcome (Block × Report) Fault Refusal :=
  match c with
  | .powerOn => .fault .illegalCommand
  | .load words => .next (.on (hostLoad words s).1, (hostLoad words s).2)
  | .reset => .next (.on s.hostReset, .nothing)
  | .step =>
    match step s with
    | .next t => .next (.on t, moveReport s t)
    | .fault r => .fault r
    | .refused r => .refused r
  | .run => .next (.on (hostRun s).1, (hostRun s).2)
  | .runProgram words => .next (.on (hostRunProgram words s).1, (hostRunProgram words s).2)
  | .teardown => .next (.off s.cfg (s.ports.order .makeSafe), .nothing)

/-- One host command. While a RUN is in progress no command has any behaviour (R246); a block
that is off knows only POWER_ON (R242, R243). That a teardown during a RUN is such a command
too, and so a fault, is DESIGN CHOICE (assumption log 22): R4 and R242 list no teardown. -/
def hostCommand (c : Command) (b : Block) : Host.Outcome (Block × Report) Fault Refusal :=
  match b with
  | .off cfg ports =>
    match c with
    | .powerOn => .next (.on (State.powerOn cfg (ports.order .initialise)), .nothing)
    | .load _ | .reset | .step | .run | .runProgram _ | .teardown => .fault .illegalCommand
  | .on s => if s.running then .fault .overlappingCommand else commandOn c s

/-! ### Status outputs -/

/-- The status outputs of R31 and R239 that are one value each. -/
structure StatusOutputs where
  halted : Bool
  lastError : ErrorCode
  pc : Word
  sp : Nat
  /-- Named a host-readable output by R31; R239 does not repeat it. -/
  progLoaded : Bool
  progLen : Nat
  instrCount : Word
  memOpCount : Word
  ioOpCount : Word
  deriving DecidableEq, Repr

/-- The status outputs, readable between commands only (R31, R239, R242). -/
def State.statusOutputs (s : State) : Option StatusOutputs :=
  if s.running then none
  else some
    { halted := s.halted, lastError := s.lastError, pc := s.pc, sp := s.sp
      progLoaded := s.progLoaded, progLen := s.progLen, instrCount := s.instrCount
      memOpCount := s.memOpCount, ioOpCount := s.ioOpCount }

/-- The cells the host can read: the stack below `sp`, every global and element that exists
(R239). -/
def State.statusCell (s : State) (a : Addr) : Option Word :=
  if s.running then none
  else
    match a with
    | .stack i => if i < s.sp then some (s.mem.read a) else none
    | .global _ => if cellExists s.cfg a then some (s.mem.read a) else none
    | .array _ _ => if cellExists s.cfg a then some (s.mem.read a) else none

/-- The codes of R191. -/
def ErrorCode.code : ErrorCode → Nat
  | .none => 0
  | .stackOverflow => 1
  | .stackUnderflow => 2
  | .invalidOpcode => 3
  | .memoryBounds => 4
  | .divisionByZero => 5
  | .invalidJump => 6
  | .ioFailure => 7
  | .programNotLoaded => 8

/-- The instruction that failed, found from `pc - 1` in run state Failed (R191, R200). -/
def State.failedInstruction (s : State) : Option Word := s.prog[u32 (s.pc - 1)]?

end Sys2Proof.Machine
end

