-- ==== Sys2Proof/Safety.lean ====
section
/-! DEFINITION. The terms claims are stated in: the invariant of the state, the whole effect of
a completed instruction, the answer a request gets, the end of a run (R240), and the contract
of the I/O agent as an oracle may assume it (R160, R163, R164). -/

namespace Sys2Proof.Machine

/-- What every state reached by commands and steps meets. -/
structure State.Inv (s : State) : Prop where
  /-- R7 to R12. -/
  config : s.cfg.WellFormed
  /-- The canonical form of the data cells. -/
  memory : s.mem.wf
  /-- No cell outside the tables is ever listed (R55, R61). -/
  cells : ∀ c ∈ s.mem, cellExists s.cfg c.1 = true
  /-- R25: `0 <= sp <= STACK_CAPACITY`. -/
  stack : s.sp ≤ s.cfg.stackCapacity
  /-- R21: `0 <= pc <= prog_len`. -/
  pc : s.pc.toNat ≤ s.prog.length
  /-- R33: `prog_len <= PROG_MAX`. -/
  length : s.prog.length ≤ s.cfg.progMax
  /-- R34: `prog_loaded` and `prog_len > 0` agree. -/
  loaded : s.progLoaded = true ↔ s.prog.length ≠ 0
  /-- R42: run state Empty is never halted. -/
  empty : s.progLoaded = false → s.halted = false
  /-- R42: in Ready the error is None, or ProgramNotLoaded from a rejected command. -/
  ready : s.halted = false → s.lastError = .none ∨ s.lastError = .programNotLoaded
  /-- R237: a RUN is in progress only in Ready. -/
  run : s.running = true → s.progLoaded = true ∧ s.halted = false

/-- What one instruction does when it completes, beyond clearing the error and counting
itself: the words it removes, the word it pushes, the cell it stores to. -/
structure Effect where
  pc : Word
  halts : Bool := false
  pops : Nat := 0
  pushed : Option Word := none
  stored : Option (Addr × Word) := none
  memOps : Word := 0
  ioOps : Word := 0
  ports : Ports

/-- `t` is `s` after an instruction completed with the effect `e` and NO OTHER: the frame is
part of it. The word pushed lies at `stack[sp - pops]`. -/
structure Completes (s t : State) (e : Effect) : Prop where
  pc : t.pc = e.pc
  sp : t.sp = s.sp - e.pops + (if e.pushed.isSome then 1 else 0)
  pushed : ∀ w, e.pushed = some w → t.mem.read (.stack (s.sp - e.pops)) = w
  stored : ∀ a w, e.stored = some (a, w) → t.mem.read a = w
  others : ∀ a, (e.pushed.isSome → a ≠ .stack (s.sp - e.pops)) →
    (∀ w, e.stored ≠ some (a, w)) → t.mem.read a = s.mem.read a
  halted : t.halted = (s.halted || e.halts)
  lastError : t.lastError = .none
  instrCount : t.instrCount = s.instrCount + 1
  memOpCount : t.memOpCount = s.memOpCount + e.memOps
  ioOpCount : t.ioOpCount = s.ioOpCount + e.ioOps
  progLoaded : t.progLoaded = s.progLoaded
  prog : t.prog = s.prog
  cfg : t.cfg = s.cfg
  running : t.running = s.running
  ports : t.ports = e.ports

/-- The state a failure with error `e` leaves (R200, R201), `p` being the environment's side:
nothing but `last_error` and `halted` differs from `s`. -/
def failedState (s : State) (e : ErrorCode) (p : Ports) : State :=
  { s with lastError := e, halted := true, ports := p }

/-- `a` is the answer the environment of `s` gives to the request `r`, and `p` the ports after
it: the next answer waiting, or, where none waits, the free value of this draw (R160, D21). -/
def Answered (s : State) (r : IoRequest) (a : IoAnswer) (p : Ports) : Prop :=
  (∃ rest, s.ports.answers = a :: rest ∧
    p = { answers := rest, draws := s.ports.draws, trace := .request r a :: s.ports.trace }) ∨
  (s.ports.answers = [] ∧ a = Config.ioAnswer s.ports.draws r ∧
    p = { answers := [], draws := s.ports.draws + 1, trace := .request r a :: s.ports.trace })

/-- The run has ended (R240). -/
def State.Ended (s : State) : Prop := s.halted = true

/-- The run has ended successfully: run state Stopped (R240). -/
def State.EndedWell (s : State) : Prop := s.halted = true ∧ s.lastError = .none

/-! ### The contract of the I/O agent

The block checks none of it (R160); a claim that uses it takes it as a hypothesis. -/

/-- The answers R160 and R163 allow a request: 0 or 1 for a button. -/
def answerAllowed (r : IoRequest) (a : IoAnswer) : Bool :=
  match r, a with
  | .buttonPressed _, .ok v => v == 0 || v == 1
  | .buttonReleased _, .ok v => v == 0 || v == 1
  | _, _ => true

/-- The latest answer to the tick request `r` in a trace (newest first), since the agent was
last initialised, reinitialised or made safe. -/
def latestTick (r : IoRequest) : List Output → Option Word
  | [] => none
  | .agent _ :: _ => none
  | .request q (.ok v) :: earlier => if q = r then some v else latestTick r earlier
  | _ :: earlier => latestTick r earlier

/-- R164: an answer to MILLIS or MICROS is not less than an earlier one of the same kind since
the agent was last reset; a run past the wrap of the 32-bit word does not meet it. -/
def ticksRise : List Output → Bool
  | [] => true
  | .request r (.ok v) :: earlier =>
    (if r = .millis ∨ r = .micros then
      match latestTick r earlier with
      | none => true
      | some u => u.toNat ≤ v.toNat
    else true) && ticksRise earlier
  | _ :: earlier => ticksRise earlier

/-- The contract over everything the block has put out. -/
def AgentContract (trace : List Output) : Prop :=
  (∀ r a, .request r a ∈ trace → answerAllowed r a = true) ∧ ticksRise trace = true

end Sys2Proof.Machine
end

