-- ==== Sys2Proof/Certificates/Slice0/Obligations.lean ====
section
/-! DEFINITION. The statements for the provers, from the numbered rules of spec/. -/

namespace Sys2Proof.Slice0

open Sys2Proof.Machine

/-- Under the default map the opcode decodes to the form, whatever the flags field and, for a form
without operand, the immediate (R84 to R86; the numbers are spec decision D1, log entry 10, the
ignored bits D3, D4). -/
def DecodesAs (opcode : Byte) (form : Imm → Instr) : Prop :=
  ∀ flags imm, decodeFields Config.cvm32 { opcode, flags, imm } = .ok (form imm)

/-- Under the default map the opcode decodes to the form exactly when `flags[0]` is the given
bit, whatever the other flags and the immediate (R83 to R86; the numbers and the
flag bit are spec decisions D1, D2, log entry 10, the ignored bits D3, D4). -/
def DecodesWithFlag (opcode : Byte) (signed : Bool) (i : Instr) : Prop :=
  ∀ flags imm, decodeFields Config.cvm32 { opcode, flags, imm } = .ok i ↔
    flags.getLsbD 0 = signed

/-- The canonical word of the form under the default map (R94). -/
def EncodesAs (word : Word) (i : Instr) : Prop := encode Config.cvm32 i = some word

/-- The instruction fails with `e`, and changes nothing else (R200, R201; spec decisions D8, D23). -/
def FailsWith (i : Instr) (s : State) (e : ErrorCode) : Prop :=
  exec i s = .next (failedState s e s.ports)

/-- The instruction completes with the effect and no other (R22; counting is spec decision D24). -/
def CompletesWith (i : Instr) (s : State) (e : Effect) : Prop :=
  ∃ t, exec i s = .next t ∧ Completes s t e

/-- The effect, shared by the six comparisons, of pushing 1 or 0 for two words removed (R120). -/
def truthEffect (s : State) (t : Bool) : Effect :=
  { pc := s.pc, pops := 2, pushed := some (if t then 1 else 0), ports := s.ports }

/-- An I/O instruction that passed its stack checks: one request, and by its answer the
failure IoFailure or the effect (R160, R167). -/
def AsksThen (i : Instr) (s : State) (r : IoRequest) (effect : Word → Ports → Effect) : Prop :=
  ∀ a p, Answered s r a p →
    (a = .fail → exec i s = .next (failedState s .ioFailure p)) ∧
    (∀ v, a = .ok v → CompletesWith i s (effect v p))

/-- In run state Ready the word at `pc` decodes to the instruction, and the step completes it. -/
def Moves (s : State) (i : Instr) (t : State) : Prop :=
  s.progLoaded = true ∧ s.halted = false ∧
  (∃ w, s.fetch = some w ∧ decode s.cfg w = .ok i) ∧ step s = .next t ∧ t.lastError = .none

/-- The instruction is a transfer that is taken if it completes (R142 to R145). -/
def Transfers (i : Instr) (s : State) : Prop :=
  i.operation ∈ [.jmp, .call, .ret] ∨ (i.operation = .jmpTrue ∧ s.peek 0 ≠ 0) ∨
  (i.operation = .jmpFalse ∧ s.peek 0 = 0)

/-- What every way out of run state Failed leaves (R205). -/
def StartsOver (t : State) : Prop :=
  t.halted = false ∧ t.lastError = .none ∧ t.pc = 0 ∧ t.sp = 0 ∧ ∀ k, t.mem.read (.stack k) = 0

/-- A RESET, or a LOAD that is accepted (R205, R234). -/
def StartsOverCommand (c : Command) (s : State) : Prop :=
  c = .reset ∨
  ∃ ws : List Word, 1 ≤ ws.length ∧ ws.length ≤ s.cfg.progMax ∧ c = .load (some ws)

end Sys2Proof.Slice0

open Sys2Proof Sys2Proof.Machine Sys2Proof.Slice0

/-! ### Encoding -/

/-- R90, R94: decoding the canonical word of an instruction gives it back, for every configuration
that meets the constraints, every instruction and every operand. Notes: the opcode map and
FLAG_SIGNED are parameters (spec decisions D1, D2); the canonical word of R94 is D30. -/
def Obligations.DecodeOfEncodeIsIdentity : Prop :=
  ∀ (c : Config) (i : Instr), c.WellFormed → ∃ w, encode c i = some w ∧ decode c w = .ok i

/-- R94: the canonical word carries the operation's number, `FLAG_SIGNED` alone and only for a
signed comparison, and the immediate or zero; the words that decode to the instruction are those
that differ from it only in bits the form does not read. Notes: the map and FLAG_SIGNED are
parameters (spec decisions D1, D2); ignored bits D3, D4; the canonical word D30. -/
def Obligations.EncodeIsCanonical : Prop :=
  ∀ (c : Config) (i : Instr) (w : Word), c.WellFormed → encode c i = some w →
    ((unpack w).opcode, i.operation) ∈ c.opcodeMap ∧
    (∀ k, (unpack w).flags.getLsbD k = (i.isSigned && decide (k = c.flagSigned.val))) ∧
    (unpack w).imm = i.immediate ∧
    ∀ v, decode c v = .ok i ↔
      (unpack v).opcode = (unpack w).opcode ∧
      (i.operation ∈ [.eq, .ne, .lt, .gt, .le, .ge] → c.isSigned (unpack v).flags = i.isSigned) ∧
      (i.operation.takesNumber = true → (unpack v).imm = i.immediate)

/-- R91: the fields tile the word, and an image of any length reads back word for word, in either
byte order. Notes: the third clause takes the instruction count as an argument and leaves out the
header and strings: log entry 14 (DEDUCED); the byte order is the parameter of R13 and R57, spec
decision D27. -/
def Obligations.PackedImageRoundTrips : Prop :=
  (∀ f, unpack (pack f) = f) ∧ (∀ w, pack (unpack w) = w) ∧
  ∀ e ws rest, unpackProgram e ws.length (packProgram e ws ++ rest) = .ok (ws, rest)

/-- R88: the values R88 lists, and no others, are invalid opcodes of the default map. Notes: the
numbers are spec decision D1, log entry 10; that flags and immediate do not matter is R194. -/
def Obligations.InvalidOpcodesAreTheListedOnes : Prop :=
  ∀ w : Word, let n := (unpack w).opcode.toNat
    (decode Config.cvm32 w = .error (.invalidOpcode (unpack w).opcode) ↔
      n = 0x07 ∨ (0x0A ≤ n ∧ n ≤ 0x0F) ∨ (0x1B ≤ n ∧ n ≤ 0x1F) ∨ (0x26 ≤ n ∧ n ≤ 0x2F) ∨
      (0x33 ≤ n ∧ n ≤ 0x4F) ∨ n = 0x52 ∨ n = 0x53 ∨ 0x56 ≤ n) ∧
    ((∃ i, decode Config.cvm32 w = .ok i) ↔
      decode Config.cvm32 w ≠ .error (.invalidOpcode (unpack w).opcode))

/-- R84, R85: a word's unread bits do not matter: words with one opcode decode alike when they
agree in `FLAG_SIGNED`, for a comparison, and in the immediate, for a form that has one. Notes:
spec decisions D2, D3, D4. -/
def Obligations.UnreadBitsAreIgnored : Prop :=
  ∀ (c : Config) (o : Operation) (f g : Fields), c.operationAt f.opcode = some o →
    g.opcode = f.opcode →
    (o ∈ [.eq, .ne, .lt, .gt, .le, .ge] → c.isSigned g.flags = c.isSigned f.flags) →
    (o ∈ [.push, .call, .printf, .jmp, .jmpTrue, .jmpFalse, .loadGlobal, .storeGlobal,
      .loadArray, .storeArray] → g.imm = f.imm) →
    decodeFields c g = decodeFields c f

/-- The words R94 and 95_test_vectors.md give. Notes: the numbers are spec decision D1, the flag
D2, the ignored bits D3 and D4, log entry 10. -/
def Obligations.ListedWordsDecode : Prop :=
  decode Config.cvm32 0x0100002A = .ok (.push 42) ∧
  decode Config.cvm32 0x03000000 = .ok .add ∧
  decode Config.cvm32 0x00000000 = .ok .halt ∧
  decode Config.cvm32 0x22010000 = .ok .ltSigned ∧
  decode Config.cvm32 0x22FE1234 = .ok .lt ∧
  decode Config.cvm32 0x51000000 = .ok (.storeGlobal 0) ∧
  decode Config.cvm32 0x32000011 = .ok (.jmpFalse 17) ∧
  decode Config.cvm32 0x5500000F = .ok (.storeArray 15) ∧
  decode Config.cvm32 0x53000000 = .error (.invalidOpcode 0x53)

/-! ### The cycle -/

/-- R22, R215: in run state Ready, with a word at `pc` that decodes to `i`, a step is `exec i` at
the state with `pc` advanced, then the InstructionEvent of the word, and, if a RUN is in progress
and this cycle ended it, the end of the RUN. Notes: spec decisions D13, D25; the model field
running is log entry 3, the trace log entry 4. -/
def Obligations.StepRunsTheDecodedInstruction : Prop :=
  ∀ (s : State) (w : Word) (i : Instr), s.progLoaded = true → s.halted = false →
    s.prog[s.pc.toNat]? = some w → decode s.cfg w = .ok i →
    ∃ t, exec i { s with pc := s.pc + 1 } = .next t ∧
      step s = .next
        (State.afterCycle { t with ports := { t.ports with
          trace := .instruction s.pc (unpack w).opcode (unpack w).imm :: t.ports.trace } })

/-- R88, R194, R203: a STEP that runs no instruction. A word whose opcode field the map does not
list fails with InvalidOpcode, whatever its flags and immediate: `pc` advanced, the event emitted,
nothing else. A cycle that starts with `pc >= prog_len` sets InvalidJump and `halted`, and leaves
`pc`, the counters and the observer port as they are. Notes: spec decisions D13 (the fetch
failure), D8 and D23 (what a failure keeps and sets) and D25 (the event); the trace is the model
field of log entry 4, running that of log entry 3. -/
def Obligations.StepWithoutAnInstructionFails : Prop :=
  (∀ (s : State) (w : Word), s.progLoaded = true → s.halted = false → s.running = false →
     s.prog[s.pc.toNat]? = some w → (∀ o, ((unpack w).opcode, o) ∉ s.cfg.opcodeMap) →
     step s = .next
       { s with
         pc := s.pc + 1, lastError := .invalidOpcode, halted := true
         ports := { s.ports with
           trace := .instruction s.pc (unpack w).opcode (unpack w).imm :: s.ports.trace } }) ∧
  (∀ s : State, s.progLoaded = true → s.halted = false → s.running = false →
     s.prog.length ≤ s.pc.toNat →
     step s = .next { s with lastError := .invalidJump, halted := true })

/-- R194: dispatching a word ends in InvalidOpcode exactly when its opcode field is not a number of
the opcode map, so that nothing but that field decides it, and no instruction raises it. -/
def Obligations.InvalidOpcodeExactlyWhen : Prop :=
  ∀ (s t : State) (w : Word), dispatch w s = .next t →
    (t.lastError = .invalidOpcode ↔ ∀ o, ((unpack w).opcode, o) ∉ s.cfg.opcodeMap)

/-- R206, R236: on a halted machine any number of steps changes nothing at all. Notes: spec
decision D23. -/
def Obligations.HaltedMachineStaysAsItIs : Prop :=
  ∀ (k : Nat) (s : State), s.progLoaded = true → s.halted = true →
    Host.Core.run core k s = .next s

/-- R89, R160, R200: every instruction in every state, and every step, has a next state. Notes:
R89 is derived by the spec; spec decisions D13, D23. -/
def Obligations.EveryStepHasANextState : Prop :=
  (∀ i s, ∃ t, exec i s = .next t) ∧ ∀ s, ∃ t, step s = .next t

/-- R216, R237: one turn of RUN's loop is the step of STEP, then, when that left the machine
halted, one CompletionEvent with the instruction count, and the RUN is over. Notes: spec decisions
D25, D33; running is log entry 3, the elapsed time the free value of log entry 6. -/
def Obligations.RunTurnIsStepThenCompletion : Prop :=
  ∀ s t : State, s.running = true → s.progLoaded = true → s.halted = false →
    step { s with running := false } = .next t →
    step s = .next
      (if t.halted then
        { t with ports := { t.ports with
          draws := t.ports.draws + 1
          trace := .completion t.instrCount (Config.elapsedMs t.ports.draws) :: t.ports.trace } }
      else { t with running := true })

/-- R65, R167, R215: a step in Ready that fetches a word puts out at most one request and then
exactly one InstructionEvent, with the fetched index, opcode and immediate. Notes: spec decisions
D21, D25; the trace is the model field of log entry 4, and a failed request stands in it by log
entry 20. -/
def Obligations.EachDispatchEmitsOneEvent : Prop :=
  ∀ (s t : State) (w : Word), s.progLoaded = true → s.halted = false → s.running = false →
    s.prog[s.pc.toNat]? = some w → step s = .next t →
    ∃ requests : List (IoRequest × IoAnswer), requests.length ≤ 1 ∧
      t.ports.trace = .instruction s.pc (unpack w).opcode (unpack w).imm ::
        (requests.map (fun q => Output.request q.1 q.2) ++ s.ports.trace)

/-! ### Stack and halt -/

/-- R100: HALT always completes; it sets `halted` and nothing else. Notes: opcode numbers: R86,
spec decision D1, log entry 10; the bits decoding ignores: R84, R85, D3, D4; HALT is counted: D24;
the end of a RUN is stated by RunTurnIsStepThenCompletion. -/
def Obligations.HaltStopsTheMachine : Prop :=
  DecodesAs 0x00 (fun _ => .halt) ∧ EncodesAs 0x00000000 .halt ∧
  ∀ s, CompletesWith .halt s { pc := s.pc, halts := true, ports := s.ports }

/-- R101: PUSH. Notes: zero extension: spec decision D5; opcode numbers: R86, spec decision D1,
log entry 10; the bits decoding ignores: R84, R85, D3, D4; what a failure keeps and sets: D8, D23;
what is counted: D24. -/
def Obligations.PushPutsTheLiteralOnTop : Prop :=
  DecodesAs 0x01 .push ∧ (∀ n, EncodesAs (0x01#8 ++ 0x00#8 ++ n) (.push n)) ∧
  ∀ s n,
    (s.cfg.stackCapacity < s.sp + 1 → FailsWith (.push n) s .stackOverflow) ∧
    (s.sp + 1 ≤ s.cfg.stackCapacity →
      CompletesWith (.push n) s
        { pc := s.pc, pushed := some (BitVec.ofNat 32 n.toNat), ports := s.ports })

/-- R102: POP. Notes: opcode numbers: R86, spec decision D1, log entry 10; the bits decoding
ignores: R84, R85, D3, D4; what a failure keeps and sets: D8, D23; what is counted: D24. -/
def Obligations.PopDiscardsTheTop : Prop :=
  DecodesAs 0x02 (fun _ => .pop) ∧ EncodesAs 0x02000000 .pop ∧
  ∀ s,
    (s.sp < 1 → FailsWith .pop s .stackUnderflow) ∧
    (1 ≤ s.sp → CompletesWith .pop s { pc := s.pc, pops := 1, ports := s.ports })

/-- R27, R101, R102: a PUSH and the POP after it leave `sp` and every word but the free cell at
`sp` as they were. Notes: that a popped cell keeps its word is spec decision D28. -/
def Obligations.PushThenPopKeepsLiveWords : Prop :=
  ∀ (s t : State) (n : Imm), s.sp + 1 ≤ s.cfg.stackCapacity → exec (.push n) s = .next t →
    ∃ u, exec .pop t = .next u ∧ u.sp = s.sp ∧
      ∀ a, a ≠ .stack s.sp → u.mem.read a = s.mem.read a

/-! ### Arithmetic -/

/-- R111 to R113: ADD, SUB and MUL, with the sum, the difference and the product of 32-bit words,
which are those of the integers modulo `2^32`. Notes: that a result wraps and never fails is R116,
spec decision D6; opcode numbers: R86, spec decision D1, log entry 10; the bits decoding ignores:
R84, R85, D3, D4; what a failure keeps and sets: D8, D23; what is counted: D24. -/
def Obligations.AddSubMulPushTheWrappedResult : Prop :=
  (DecodesAs 0x03 (fun _ => .add) ∧ DecodesAs 0x04 (fun _ => .sub) ∧
    DecodesAs 0x05 (fun _ => .mul)) ∧
  (EncodesAs 0x03000000 .add ∧ EncodesAs 0x04000000 .sub ∧ EncodesAs 0x05000000 .mul) ∧
  ∀ (s : State) (i : Instr) (r : Word),
    (i, r) ∈ [(Instr.add, s.peek 1 + s.peek 0), (.sub, s.peek 1 - s.peek 0),
      (.mul, s.peek 1 * s.peek 0)] →
    (s.sp < 2 → FailsWith i s .stackUnderflow) ∧
    (2 ≤ s.sp → CompletesWith i s
      { pc := s.pc, pops := 2, pushed := some r, ports := s.ports })

/-- R114: DIV, the depth tested before the divisor. Notes: signed division and the quotient that
does not fit: spec decision D7; the order of the checks: D9; opcode numbers: R86, spec decision
D1, log entry 10; the bits decoding ignores: R84, R85, D3, D4; what a failure keeps and sets: D8,
D23; what is counted: D24. -/
def Obligations.DivPushesTheTruncatedQuotient : Prop :=
  DecodesAs 0x06 (fun _ => .div) ∧ EncodesAs 0x06000000 .div ∧
  ∀ s,
    (s.sp < 2 → FailsWith .div s .stackUnderflow) ∧
    (2 ≤ s.sp → s.peek 0 = 0 → FailsWith .div s .divisionByZero) ∧
    (2 ≤ s.sp → s.peek 0 ≠ 0 → CompletesWith .div s
      { pc := s.pc, pops := 2
        pushed := some (BitVec.ofInt 32 ((s.peek 1).toInt.tdiv (s.peek 0).toInt))
        ports := s.ports })

/-- R115: the pushed quotient, read signed, has the magnitude `floor(|a| / |b|)` and, when it is
not zero, the product of the operand signs, for every non-zero divisor but the one quotient that
does not fit, which is `0x80000000`. Notes: R115 is derived by the spec; spec decision D7. -/
def Obligations.QuotientHasMagnitudeAndSign : Prop :=
  ∀ s t : State, 2 ≤ s.sp → s.peek 0 ≠ 0 → exec .div s = .next t →
    if s.peek 1 = 0x80000000 ∧ s.peek 0 = 0xFFFFFFFF then t.peek 0 = 0x80000000
    else
      (t.peek 0).toInt.natAbs = (s.peek 1).toInt.natAbs / (s.peek 0).toInt.natAbs ∧
      ((t.peek 0).toInt ≠ 0 →
        (t.peek 0).toInt.sign = (s.peek 1).toInt.sign * (s.peek 0).toInt.sign)

/-- R116: ADD, SUB and MUL push the exact result modulo `2^32`, the same pattern whether the
operands are read signed or unsigned. Notes: no overflow detection: spec decision D6. -/
def Obligations.ArithmeticWrapsAlikeForBothReadings : Prop :=
  ∀ (i : Instr) (f : Int → Int → Int) (s t : State),
    (i, f) ∈ [(Instr.add, fun a b => a + b), (.sub, fun a b => a - b), (.mul, fun a b => a * b)] →
    2 ≤ s.sp → exec i s = .next t →
      t.peek 0 = BitVec.ofInt 32 (f (s.peek 1).toInt (s.peek 0).toInt) ∧
      t.peek 0 = BitVec.ofInt 32 (f (s.peek 1).toNat (s.peek 0).toNat) ∧
      t.lastError = .none

/-! ### Comparisons -/

/-- R121 to R126: the six unsigned comparisons. Notes: selection by flags[0]: R83, R120, spec
decision D2; the other flags and the immediate ignored: R84, R85, D3, D4; opcode numbers: R86, D1;
log entry 10 for the numbers and the flag bit; what a failure keeps and sets: D8, D23; what is
counted: D24. -/
def Obligations.UnsignedComparisonsPushTheTruth : Prop :=
  (DecodesWithFlag 0x20 false .eq ∧ DecodesWithFlag 0x21 false .ne ∧
    DecodesWithFlag 0x22 false .lt ∧ DecodesWithFlag 0x23 false .gt ∧
    DecodesWithFlag 0x24 false .le ∧ DecodesWithFlag 0x25 false .ge) ∧
  (EncodesAs 0x20000000 .eq ∧ EncodesAs 0x21000000 .ne ∧ EncodesAs 0x22000000 .lt ∧
    EncodesAs 0x23000000 .gt ∧ EncodesAs 0x24000000 .le ∧ EncodesAs 0x25000000 .ge) ∧
  ∀ s : State, let a := (s.peek 1).toNat; let b := (s.peek 0).toNat
    ∀ i t, (i, t) ∈ [(Instr.eq, decide (a = b)), (.ne, decide (a ≠ b)), (.lt, decide (a < b)),
        (.gt, decide (a > b)), (.le, decide (a ≤ b)), (.ge, decide (a ≥ b))] →
      (s.sp < 2 → FailsWith i s .stackUnderflow) ∧
      (2 ≤ s.sp → CompletesWith i s (truthEffect s t))

/-- R127 to R132: the six signed comparisons. Notes: selection by flags[0]: R83, R120, spec
decision D2; the other flags and the immediate ignored: R84, R85, D3, D4; opcode numbers: R86, D1;
log entry 10 for the numbers and the flag bit; what a failure keeps and sets: D8, D23; what is
counted: D24. -/
def Obligations.SignedComparisonsPushTheTruth : Prop :=
  (DecodesWithFlag 0x20 true .eqSigned ∧ DecodesWithFlag 0x21 true .neSigned ∧
    DecodesWithFlag 0x22 true .ltSigned ∧ DecodesWithFlag 0x23 true .gtSigned ∧
    DecodesWithFlag 0x24 true .leSigned ∧ DecodesWithFlag 0x25 true .geSigned) ∧
  (EncodesAs 0x20010000 .eqSigned ∧ EncodesAs 0x21010000 .neSigned ∧
    EncodesAs 0x22010000 .ltSigned ∧ EncodesAs 0x23010000 .gtSigned ∧
    EncodesAs 0x24010000 .leSigned ∧ EncodesAs 0x25010000 .geSigned) ∧
  ∀ s : State, let a := (s.peek 1).toInt; let b := (s.peek 0).toInt
    ∀ i t, (i, t) ∈ [(Instr.eqSigned, decide (a = b)), (.neSigned, decide (a ≠ b)),
        (.ltSigned, decide (a < b)), (.gtSigned, decide (a > b)),
        (.leSigned, decide (a ≤ b)), (.geSigned, decide (a ≥ b))] →
      (s.sp < 2 → FailsWith i s .stackUnderflow) ∧
      (2 ≤ s.sp → CompletesWith i s (truthEffect s t))

/-- R120: the two forms of LT, GT, LE and GE push different words exactly when the sign bits of
the operands differ, and the two forms of EQ and of NE never do. Notes: selection by the flag:
spec decision D2. -/
def Obligations.SignedFormsDifferOnSignBits : Prop :=
  ∀ (i j : Instr) (ordered : Bool) (s t u : State),
    (i, j, ordered) ∈ [(Instr.lt, Instr.ltSigned, true), (.gt, .gtSigned, true),
      (.le, .leSigned, true), (.ge, .geSigned, true), (.eq, .eqSigned, false),
      (.ne, .neSigned, false)] →
    2 ≤ s.sp → exec i s = .next t → exec j s = .next u →
      (t.peek 0 ≠ u.peek 0 ↔ ordered = true ∧ (s.peek 1).msb ≠ (s.peek 0).msb)

/-! ### Control flow -/

/-- R141: JMP. Notes: failure at target = prog_len: R140, spec decision D10; zero extension D5;
opcode numbers: R86, spec decision D1, log entry 10; the bits decoding ignores: R84, R85, D3, D4;
what a failure keeps and sets: D8, D23; what is counted: D24. -/
def Obligations.JmpSetsPcToAValidTarget : Prop :=
  DecodesAs 0x30 .jmp ∧ (∀ n, EncodesAs (0x30#8 ++ 0x00#8 ++ n) (.jmp n)) ∧
  ∀ s n,
    (s.prog.length ≤ n.toNat → FailsWith (.jmp n) s .invalidJump) ∧
    (n.toNat < s.prog.length →
      CompletesWith (.jmp n) s { pc := BitVec.ofNat 32 n.toNat, ports := s.ports })

/-- R142, R143: JMP_TRUE jumps on any word but zero, JMP_FALSE on zero only; the condition is
consumed either way, and the target is examined only when the jump is taken. Notes: a target not
taken is not examined: spec decision D11; failure at target = prog_len: R140, D10; depth before
target: R202, D9; zero extension D5; opcode numbers: R86, spec decision D1, log entry 10; the bits
decoding ignores: R84, R85, D3, D4; what a failure keeps and sets: D8, D23; what is counted: D24.
  -/
def Obligations.ConditionalJumpsConsumeTheCondition : Prop :=
  (DecodesAs 0x31 .jmpTrue ∧ DecodesAs 0x32 .jmpFalse) ∧
  ((∀ n, EncodesAs (0x31#8 ++ 0x00#8 ++ n) (.jmpTrue n)) ∧
    ∀ n, EncodesAs (0x32#8 ++ 0x00#8 ++ n) (.jmpFalse n)) ∧
  ∀ (s : State) (n : Imm) (i : Instr) (taken : Prop),
    (i = .jmpTrue n ∧ (taken ↔ s.peek 0 ≠ 0)) ∨ (i = .jmpFalse n ∧ (taken ↔ s.peek 0 = 0)) →
    (s.sp < 1 → FailsWith i s .stackUnderflow) ∧
    (1 ≤ s.sp → taken → s.prog.length ≤ n.toNat → FailsWith i s .invalidJump) ∧
    (1 ≤ s.sp → taken → n.toNat < s.prog.length →
      CompletesWith i s { pc := BitVec.ofNat 32 n.toNat, pops := 1, ports := s.ports }) ∧
    (1 ≤ s.sp → ¬ taken → CompletesWith i s { pc := s.pc, pops := 1, ports := s.ports })

/-- R144: CALL pushes the successor index, which `pc` holds during dispatch; room is tested before
the target. Notes: failure at target = prog_len: R140, spec decision D10; room before target:
R202, D9; zero extension D5; opcode numbers: R86, spec decision D1, log entry 10; the bits
decoding ignores: R84, R85, D3, D4; what a failure keeps and sets: D8, D23; what is counted: D24.
  -/
def Obligations.CallPushesTheSuccessor : Prop :=
  DecodesAs 0x08 .call ∧ (∀ n, EncodesAs (0x08#8 ++ 0x00#8 ++ n) (.call n)) ∧
  ∀ s n,
    (s.cfg.stackCapacity < s.sp + 1 → FailsWith (.call n) s .stackOverflow) ∧
    (s.sp + 1 ≤ s.cfg.stackCapacity → s.prog.length ≤ n.toNat →
      FailsWith (.call n) s .invalidJump) ∧
    (s.sp + 1 ≤ s.cfg.stackCapacity → n.toNat < s.prog.length →
      CompletesWith (.call n) s
        { pc := BitVec.ofNat 32 n.toNat, pushed := some s.pc, ports := s.ports })

/-- R145: RET; the whole popped word, unsigned, is the target. Notes: the check of the target in
RET itself: spec decision D12; failure at target = prog_len: R140, D10; depth before target: R202,
D9; opcode numbers: R86, spec decision D1, log entry 10; the bits decoding ignores: R84, R85, D3,
D4; what a failure keeps and sets: D8, D23; what is counted: D24. -/
def Obligations.RetJumpsToThePoppedWord : Prop :=
  DecodesAs 0x09 (fun _ => .ret) ∧ EncodesAs 0x09000000 .ret ∧
  ∀ s,
    (s.sp < 1 → FailsWith .ret s .stackUnderflow) ∧
    (1 ≤ s.sp → s.prog.length ≤ (s.peek 0).toNat → FailsWith .ret s .invalidJump) ∧
    (1 ≤ s.sp → (s.peek 0).toNat < s.prog.length →
      CompletesWith .ret s { pc := s.peek 0, pops := 1, ports := s.ports })

/-- R147: after a CALL that completed, a RET that finds the stack pointer and the top word the
CALL left resumes at the successor index, wherever `pc` then is, with the caller's depth. Notes:
R147 is derived by the spec; the check of the target in RET: spec decision D12. -/
def Obligations.CallThenRetResumesAtTheSuccessor : Prop :=
  ∀ (s t v : State) (n : Imm), s.sp + 1 ≤ s.cfg.stackCapacity → n.toNat < s.prog.length →
    s.pc.toNat < s.prog.length → exec (.call n) s = .next t →
    v.sp = t.sp → v.prog = t.prog → v.mem.read (.stack s.sp) = t.mem.read (.stack s.sp) →
    ∃ u, exec .ret v = .next u ∧ u.pc = s.pc ∧ u.sp = s.sp ∧ u.mem = v.mem ∧ u.lastError = .none

/-- R23: an instruction that is no jump, CALL or RET leaves `pc` at the successor index. Notes:
R23 is derived by the spec; that a failure keeps pc too is R200, R201, spec decision D8. -/
def Obligations.OnlyTransfersMovePc : Prop :=
  ∀ (i : Instr) (s t : State),
    i.operation ∉ [.jmp, .jmpTrue, .jmpFalse, .call, .ret] → exec i s = .next t → t.pc = s.pc

/-- R148: after a transfer the very next fetch reads the word at the `pc` it set; RET alone takes
its target from a word, the top of the stack; a CALL leaves the successor index, absolute too, on
the stack; and any other taken transfer goes to one index, the same wherever and in whatever state
the instruction runs: absolute, never relative to `pc`, and not computed. -/
def Obligations.TransfersTakeEffectAtTheNextFetch : Prop :=
  (∀ (s t : State) (i : Instr), Moves s i t → Transfers i s →
    t.fetch = s.prog[t.pc.toNat]? ∧ (i = .ret → t.pc = s.peek 0) ∧
    (i.operation = .call → t.peek 0 = s.pc + 1)) ∧
  ∀ (s t s' t' : State) (i : Instr), Moves s i t → Moves s' i t' → Transfers i s →
    Transfers i s' → i ≠ .ret → t.pc = t'.pc

/-! ### Memory operations -/

/-- R151: LOAD_GLOBAL; the bounds are tested before the room. Notes: that LOAD_GLOBAL pushes is
spec decision D15; the order of the checks: D9; the index compared at full width: D17; opcode
numbers: R86, spec decision D1, log entry 10; the bits decoding ignores: R84, R85, D3, D4; what a
failure keeps and sets: D8, D23; what is counted: D24. -/
def Obligations.LoadGlobalPushesTheGlobal : Prop :=
  DecodesAs 0x50 .loadGlobal ∧ (∀ n, EncodesAs (0x50#8 ++ 0x00#8 ++ n) (.loadGlobal n)) ∧
  ∀ s n,
    (s.cfg.globalCount ≤ n.toNat → FailsWith (.loadGlobal n) s .memoryBounds) ∧
    (n.toNat < s.cfg.globalCount → s.cfg.stackCapacity < s.sp + 1 →
      FailsWith (.loadGlobal n) s .stackOverflow) ∧
    (n.toNat < s.cfg.globalCount → s.sp + 1 ≤ s.cfg.stackCapacity →
      CompletesWith (.loadGlobal n) s
        { pc := s.pc, pushed := some (s.mem.read (.global n.toNat)), memOps := 1
          ports := s.ports })

/-- R152: STORE_GLOBAL. Notes: that STORE_GLOBAL pops is spec decision D15; the order of the
checks: D9; the index compared at full width: D17; opcode numbers: R86, spec decision D1, log
entry 10; the bits decoding ignores: R84, R85, D3, D4; what a failure keeps and sets: D8, D23;
what is counted: D24. -/
def Obligations.StoreGlobalWritesOneGlobal : Prop :=
  DecodesAs 0x51 .storeGlobal ∧ (∀ n, EncodesAs (0x51#8 ++ 0x00#8 ++ n) (.storeGlobal n)) ∧
  ∀ s n,
    (s.sp < 1 → FailsWith (.storeGlobal n) s .stackUnderflow) ∧
    (1 ≤ s.sp → s.cfg.globalCount ≤ n.toNat → FailsWith (.storeGlobal n) s .memoryBounds) ∧
    (1 ≤ s.sp → n.toNat < s.cfg.globalCount →
      CompletesWith (.storeGlobal n) s
        { pc := s.pc, pops := 1, stored := some (.global n.toNat, s.peek 0), memOps := 1
          ports := s.ports })

/-- R153: LOAD_ARRAY; `cap` is the capacity of the array, none where there is no such array.
Notes: the array number from the immediate and the operand shape: spec decision D16; one error for
both: D34; the order of the checks: D9; the index compared at full width: D17; opcode numbers:
R86, spec decision D1, log entry 10; the bits decoding ignores: R84, R85, D3, D4; what a failure
keeps and sets: D8, D23; what is counted: D24. -/
def Obligations.LoadArrayPushesTheElement : Prop :=
  DecodesAs 0x54 .loadArray ∧ (∀ n, EncodesAs (0x54#8 ++ 0x00#8 ++ n) (.loadArray n)) ∧
  ∀ s n,
    (s.sp < 1 → FailsWith (.loadArray n) s .stackUnderflow) ∧
    (1 ≤ s.sp → s.cfg.arrayCount ≤ n.toNat → FailsWith (.loadArray n) s .memoryBounds) ∧
    ∀ cap, s.cfg.arrayCaps[n.toNat]? = some cap →
      (1 ≤ s.sp → cap ≤ (s.peek 0).toNat → FailsWith (.loadArray n) s .memoryBounds) ∧
      (1 ≤ s.sp → (s.peek 0).toNat < cap →
        CompletesWith (.loadArray n) s
          { pc := s.pc, pops := 1
            pushed := some (s.mem.read (.array n.toNat (s.peek 0).toNat)), memOps := 1
            ports := s.ports })

/-- R154: STORE_ARRAY, the value on top and the index under it. Notes: the array number from the
immediate and the operand shape: spec decision D16; one error for both: D34; the order of the
checks: D9; the index compared at full width: D17; opcode numbers: R86, spec decision D1, log
entry 10; the bits decoding ignores: R84, R85, D3, D4; what a failure keeps and sets: D8, D23;
what is counted: D24. -/
def Obligations.StoreArrayWritesOneElement : Prop :=
  DecodesAs 0x55 .storeArray ∧ (∀ n, EncodesAs (0x55#8 ++ 0x00#8 ++ n) (.storeArray n)) ∧
  ∀ s n,
    (s.sp < 2 → FailsWith (.storeArray n) s .stackUnderflow) ∧
    (2 ≤ s.sp → s.cfg.arrayCount ≤ n.toNat → FailsWith (.storeArray n) s .memoryBounds) ∧
    ∀ cap, s.cfg.arrayCaps[n.toNat]? = some cap →
      (2 ≤ s.sp → cap ≤ (s.peek 1).toNat → FailsWith (.storeArray n) s .memoryBounds) ∧
      (2 ≤ s.sp → (s.peek 1).toNat < cap →
        CompletesWith (.storeArray n) s
          { pc := s.pc, pops := 2
            stored := some (.array n.toNat (s.peek 1).toNat, s.peek 0), memOps := 1
            ports := s.ports })

/-- R36, R37: no instruction but STORE_GLOBAL changes a global, and that one only its own; no
instruction but STORE_ARRAY changes an element, and that one only of its own array. Notes: that a
failed store changes nothing is spec decision D8; the operands of the array forms D16; D26
concerns resets only. -/
def Obligations.OnlyStoresChangeData : Prop :=
  ∀ (i : Instr) (s t : State), exec i s = .next t →
    (∀ k, t.mem.read (.global k) ≠ s.mem.read (.global k) →
      ∃ n : Imm, i = .storeGlobal n ∧ n.toNat = k ∧ k < s.cfg.globalCount) ∧
    (∀ a k, t.mem.read (.array a k) ≠ s.mem.read (.array a k) →
      ∃ n : Imm, i = .storeArray n ∧ n.toNat = a ∧ (s.peek 1).toNat = k ∧
        cellExists s.cfg (.array a k) = true)

/-! ### I/O operations -/

/-- R168, R170, R173: DIGITAL_WRITE, ANALOG_WRITE and PIN_MODE. Notes: operands: spec decision
D19; the answer is a draw: spec decision D21; checks before the request: D9; the answer, the draws
and the trace are log entry 4, the value with every ok log entry 5, a failed request in the trace
log entry 20; opcode numbers: R86, spec decision D1, log entry 10; the bits decoding ignores: R84,
R85, D3, D4; what a failure keeps and sets: D8, D23; what is counted: D24. -/
def Obligations.PortWritesSendTwoWords : Prop :=
  (DecodesAs 0x10 (fun _ => .digitalWrite) ∧ DecodesAs 0x12 (fun _ => .analogWrite) ∧
    DecodesAs 0x17 (fun _ => .pinMode)) ∧
  (EncodesAs 0x10000000 .digitalWrite ∧ EncodesAs 0x12000000 .analogWrite ∧
    EncodesAs 0x17000000 .pinMode) ∧
  ∀ (s : State) (i : Instr) (r : IoRequest),
    (i, r) ∈ [(Instr.digitalWrite, IoRequest.digitalWrite (s.peek 1) (s.peek 0)),
      (.analogWrite, .analogWrite (s.peek 1) (s.peek 0)),
      (.pinMode, .pinMode (s.peek 1) (s.peek 0))] →
    (s.sp < 2 → FailsWith i s .stackUnderflow) ∧
    (2 ≤ s.sp → AsksThen i s r fun _ p => { pc := s.pc, pops := 2, ioOps := 1, ports := p })

/-- R169, R171, R174, R175: DIGITAL_READ, ANALOG_READ, BUTTON_PRESSED and BUTTON_RELEASED push the
word the port answered, whatever it is. Notes: operands: spec decision D19; the answer is a draw:
spec decision D21; checks before the request: D9; the answer, the draws and the trace are log
entry 4, the value with every ok log entry 5, a failed request in the trace log entry 20; opcode
numbers: R86, spec decision D1, log entry 10; the bits decoding ignores: R84, R85, D3, D4; what a
failure keeps and sets: D8, D23; what is counted: D24. -/
def Obligations.PortReadsPushTheAnswer : Prop :=
  (DecodesAs 0x11 (fun _ => .digitalRead) ∧ DecodesAs 0x13 (fun _ => .analogRead) ∧
    DecodesAs 0x15 (fun _ => .buttonPressed) ∧ DecodesAs 0x16 (fun _ => .buttonReleased)) ∧
  (EncodesAs 0x11000000 .digitalRead ∧ EncodesAs 0x13000000 .analogRead ∧
    EncodesAs 0x15000000 .buttonPressed ∧ EncodesAs 0x16000000 .buttonReleased) ∧
  ∀ (s : State) (i : Instr) (r : IoRequest),
    (i, r) ∈ [(Instr.digitalRead, IoRequest.digitalRead (s.peek 0)),
      (.analogRead, .analogRead (s.peek 0)), (.buttonPressed, .buttonPressed (s.peek 0)),
      (.buttonReleased, .buttonReleased (s.peek 0))] →
    (s.sp < 1 → FailsWith i s .stackUnderflow) ∧
    (1 ≤ s.sp → AsksThen i s r fun v p =>
      { pc := s.pc, pops := 1, pushed := some v, ioOps := 1, ports := p })

/-- R172: DELAY. Notes: operands: spec decision D19; the answer is a draw: spec decision D21;
checks before the request: D9; the answer, the draws and the trace are log entry 4, the value with
every ok log entry 5, a failed request in the trace log entry 20; opcode numbers: R86, spec
decision D1, log entry 10; the bits decoding ignores: R84, R85, D3, D4; what a failure keeps and
sets: D8, D23; what is counted: D24. -/
def Obligations.DelaySendsOneWord : Prop :=
  DecodesAs 0x14 (fun _ => .delay) ∧ EncodesAs 0x14000000 .delay ∧
  ∀ s,
    (s.sp < 1 → FailsWith .delay s .stackUnderflow) ∧
    (1 ≤ s.sp → AsksThen .delay s (.delay (s.peek 0)) fun _ p =>
      { pc := s.pc, pops := 1, ioOps := 1, ports := p })

/-- R176: PRINTF, with `n` the count word read unsigned and clamped, and `args[k] = peek(n - k)`.
Notes: operands: spec decision D19; the clamp: D20; the answer is a draw: spec decision D21;
checks before the request: D9; the answer, the draws and the trace are log entry 4, the value with
every ok log entry 5, a failed request in the trace log entry 20; opcode numbers: R86, spec
decision D1, log entry 10; the bits decoding ignores: R84, R85, D3, D4; what a failure keeps and
sets: D8, D23; what is counted: D24. -/
def Obligations.PrintfSendsTheClampedArguments : Prop :=
  DecodesAs 0x18 .printf ∧ (∀ k, EncodesAs (0x18#8 ++ 0x00#8 ++ k) (.printf k)) ∧
  ∀ (s : State) (k : Imm) (n : Nat), n = min (s.peek 0).toNat s.cfg.printfMaxArgs →
    (s.sp < 1 → FailsWith (.printf k) s .stackUnderflow) ∧
    (s.sp < 1 + n → FailsWith (.printf k) s .stackUnderflow) ∧
    (1 + n ≤ s.sp → ∀ args : List Word, args.length = n →
      (∀ (j : Nat) (h : j < args.length), args[j] = s.peek (n - j)) →
      AsksThen (.printf k) s (.printf (BitVec.ofNat 32 k.toNat) n args) fun _ p =>
        { pc := s.pc, pops := 1 + n, ioOps := 1, ports := p })

/-- R177, R178: MILLIS and MICROS; room is tested before the request is issued. Notes: operands:
spec decision D19; the answer is a draw: spec decision D21; checks before the request: D9; the
answer, the draws and the trace are log entry 4, the value with every ok log entry 5, a failed
request in the trace log entry 20; opcode numbers: R86, spec decision D1, log entry 10; the bits
decoding ignores: R84, R85, D3, D4; what a failure keeps and sets: D8, D23; what is counted: D24.
  -/
def Obligations.TickReadsPushTheAnswer : Prop :=
  (DecodesAs 0x19 (fun _ => .millis) ∧ DecodesAs 0x1A (fun _ => .micros)) ∧
  (EncodesAs 0x19000000 .millis ∧ EncodesAs 0x1A000000 .micros) ∧
  ∀ (s : State) (i : Instr) (r : IoRequest),
    (i, r) ∈ [(Instr.millis, IoRequest.millis), (.micros, .micros)] →
    (s.cfg.stackCapacity < s.sp + 1 → FailsWith i s .stackOverflow) ∧
    (s.sp + 1 ≤ s.cfg.stackCapacity → AsksThen i s r fun v p =>
      { pc := s.pc, pushed := some v, ioOps := 1, ports := p })

/-- R163, R164 as hypotheses, not checks of the block: under the agent's contract a button poll
that completes pushes 0 or 1, and a MILLIS that completes pushes no less than the latest MILLIS
answer since the agent was reset. Notes: the contract is a hypothesis, log entry 9; the answers
are draws, spec decision D21, log entry 4. -/
def Obligations.AgentContractBoundsTheAnswers : Prop :=
  ∀ s t : State, t.lastError = .none → AgentContract t.ports.trace →
    (∀ i ∈ [Instr.buttonPressed, .buttonReleased], exec i s = .next t →
      t.peek 0 = 0 ∨ t.peek 0 = 1) ∧
    (∀ u, exec .millis s = .next t → latestTick .millis s.ports.trace = some u →
      u.toNat ≤ (t.peek 0).toNat)

/-! ### Failures -/

/-- R199, R201: an instruction that does not complete changes nothing but `last_error`, `halted`
and, when the port answered `fail`, the environment's side of the port; and no instruction raises
InvalidOpcode (the dispatcher's, R194) or ProgramNotLoaded. Notes: spec decisions D8, D23, D29;
the ports are log entry 4, a failed request log entry 20. -/
def Obligations.FailuresArePrecise : Prop :=
  ∀ (i : Instr) (s t : State), exec i s = .next t → t.lastError ≠ .none →
    t = failedState s t.lastError t.ports ∧
    (t.lastError ≠ .ioFailure → t.ports = s.ports) ∧
    t.lastError ≠ .invalidOpcode ∧ t.lastError ≠ .programNotLoaded

/-- R192: StackOverflow is raised by PUSH, CALL, LOAD_GLOBAL, MILLIS and MICROS, each exactly when
the stack is full (LOAD_GLOBAL: and its index valid, R202), and by no other instruction; the stack
is then as it was. Notes: LOAD_GLOBAL tests its index first (R151, R202, spec decision D9), CALL
its target last; that LOAD_GLOBAL, MILLIS and MICROS push: D15, D19; that the stack is kept is
R201, D8. -/
def Obligations.StackOverflowExactlyWhen : Prop :=
  ∀ (i : Instr) (s t : State), exec i s = .next t →
    (t.lastError = .stackOverflow → t.sp = s.sp ∧ t.mem = s.mem) ∧
    (t.lastError = .stackOverflow ↔
      s.cfg.stackCapacity < s.sp + 1 ∧
      (i.operation ∈ [.push, .call, .millis, .micros] ∨
        ∃ n : Imm, i = .loadGlobal n ∧ n.toNat < s.cfg.globalCount))

/-- R193: StackUnderflow is raised exactly when the stack holds fewer words than the instruction
needs; the stack is then as it was. Notes: the words each form needs: spec decisions D15, D16,
D19; the clamped need of PRINTF: R176, D20; the depth is tested first: D9; that the stack is kept
is R201, D8. -/
def Obligations.StackUnderflowExactlyWhen : Prop :=
  ∀ (i : Instr) (s t : State), exec i s = .next t →
    (t.lastError = .stackUnderflow → t.sp = s.sp ∧ t.mem = s.mem) ∧
    (t.lastError = .stackUnderflow ↔
      (s.sp < 1 ∧ i.operation ∈ [.pop, .jmpTrue, .jmpFalse, .ret, .storeGlobal, .loadArray,
        .digitalRead, .analogRead, .delay, .buttonPressed, .buttonReleased]) ∨
      (s.sp < 2 ∧ i.operation ∈ [.add, .sub, .mul, .div, .eq, .ne, .lt, .gt, .le, .ge,
        .storeArray, .digitalWrite, .analogWrite, .pinMode]) ∨
      (i.operation = .printf ∧
        (s.sp < 1 ∨ s.sp < 1 + min (s.peek 0).toNat s.cfg.printfMaxArgs)))

/-- R195, R202: MemoryBounds is raised exactly by a memory operation whose depth check passed and
whose index is out of range; every cell is then as it was. Notes: that the depth is tested first
is R152 to R155 and R202, spec decision D9; the operands D15, D16; the width of the check D17; one
error for both D34; that every cell is kept is R201, D8. -/
def Obligations.MemoryBoundsExactlyWhen : Prop :=
  ∀ (i : Instr) (s t : State), exec i s = .next t →
    (t.lastError = .memoryBounds → t.sp = s.sp ∧ t.mem = s.mem) ∧
    (t.lastError = .memoryBounds ↔
      (∃ n : Imm, i = .loadGlobal n ∧ s.cfg.globalCount ≤ n.toNat) ∨
      (∃ n : Imm, i = .storeGlobal n ∧ 1 ≤ s.sp ∧ s.cfg.globalCount ≤ n.toNat) ∨
      (∃ n : Imm, i = .loadArray n ∧ 1 ≤ s.sp ∧
        cellExists s.cfg (.array n.toNat (s.peek 0).toNat) = false) ∨
      (∃ n : Imm, i = .storeArray n ∧ 2 ≤ s.sp ∧
        cellExists s.cfg (.array n.toNat (s.peek 1).toNat) = false))

/-- R196: DivisionByZero is raised exactly by a DIV with both operands and a zero divisor. Notes:
that the depth is tested first is R114 and R202, spec decision D9. -/
def Obligations.DivisionByZeroExactlyWhen : Prop :=
  ∀ (i : Instr) (s t : State), exec i s = .next t →
    (t.lastError = .divisionByZero ↔ i = .div ∧ 2 ≤ s.sp ∧ s.peek 0 = 0)

/-- R140, R197, R202: InvalidJump is raised by an instruction exactly when a transfer it makes has
a target that names no instruction and its earlier checks passed. Notes: spec decisions D10, D11,
D12; the order of the checks R202, D9; the fetch failure is in StepWithoutAnInstructionFails. -/
def Obligations.InvalidJumpExactlyWhen : Prop :=
  ∀ (i : Instr) (s t : State), exec i s = .next t →
    (t.lastError = .invalidJump ↔
      (∃ n : Imm, s.prog.length ≤ n.toNat ∧
        (i = .jmp n ∨
         (i = .call n ∧ s.sp + 1 ≤ s.cfg.stackCapacity) ∨
         (i = .jmpTrue n ∧ 1 ≤ s.sp ∧ s.peek 0 ≠ 0) ∨
         (i = .jmpFalse n ∧ 1 ≤ s.sp ∧ s.peek 0 = 0))) ∨
      (i = .ret ∧ 1 ≤ s.sp ∧ s.prog.length ≤ (s.peek 0).toNat))

/-- R198: IoFailure is raised by the eleven I/O operations only, exactly when a request was put
out and answered `fail`. Notes: the trace is the model field of log entry 4, and a failed request
stands in it by log entry 20; spec decision D21. -/
def Obligations.IoFailureExactlyWhen : Prop :=
  ∀ (i : Instr) (s t : State), exec i s = .next t →
    (t.lastError = .ioFailure → i.operation ∈ [.digitalWrite, .digitalRead, .analogWrite,
      .analogRead, .delay, .buttonPressed, .buttonReleased, .pinMode, .printf, .millis,
      .micros]) ∧
    (t.lastError = .ioFailure ↔ ∃ r, t.ports.trace = .request r .fail :: s.ports.trace)

/-- R35, R38, R39, R211: the counters count completed instructions, completed memory operations
and completed I/O operations, wrap, and count no failure. Notes: spec decision D24; which forms
are I/O and memory operations R150, R160. -/
def Obligations.CountersCountCompletions : Prop :=
  ∀ (i : Instr) (s t : State), exec i s = .next t →
    t.instrCount = s.instrCount + (if t.lastError = .none then 1 else 0) ∧
    t.memOpCount = s.memOpCount +
      (if t.lastError = .none ∧
        i.operation ∈ [.loadGlobal, .storeGlobal, .loadArray, .storeArray] then 1 else 0) ∧
    t.ioOpCount = s.ioOpCount +
      (if t.lastError = .none ∧ i.operation ∈ [.digitalWrite, .digitalRead, .analogWrite,
        .analogRead, .delay, .buttonPressed, .buttonReleased, .pinMode, .printf, .millis,
        .micros] then 1 else 0)

/-! ### The whole machine -/

/-- R32, R33, R34, R41: no step changes the program, its length, `prog_loaded` or the parameters.
Notes: R34 is derived by the spec; the parameters stand in State: log entry 1; the length is that
of the list: log entry 11. -/
def Obligations.StepsKeepProgramAndParameters : Prop :=
  ∀ s t : State, step s = .next t →
    t.prog = s.prog ∧ t.progLoaded = s.progLoaded ∧ t.cfg = s.cfg

/-- R29: no instruction clears `halted`; only a HALT and an instruction that fails set it. Notes:
spec decision D23. -/
def Obligations.HaltedIsSetByHaltOrFailureOnly : Prop :=
  ∀ (i : Instr) (s t : State), exec i s = .next t →
    (t.halted = true ↔ s.halted = true ∨ i = .halt ∨ t.lastError ≠ .none)

/-- The invariant holds right after POWER_ON. Notes: the memory form is log entry 2, the default
parameters spec decisions D1, D2, D14, D18, D27. -/
def Obligations.InvariantHoldsAtReset : Prop := State.reset.Inv

/-- The invariant is kept by every step, from every state that meets it. Notes: the memory form is
log entry 2, running log entry 3, out-of-range values log entry 19; R34 and R42 are derived by the
spec; the checks of targets and of the fetch are spec decisions D10, D12, D13. -/
def Obligations.StepsKeepTheInvariant : Prop :=
  ∀ s t : State, s.Inv → step s = .next t → t.Inv

/-- The invariant is kept by every host command that has a behaviour. Notes: the memory form is
log entry 2, running log entry 3; power-on values and rejection: spec decisions D26, D29; R42 is
derived by the spec. -/
def Obligations.HostCommandsKeepTheInvariant : Prop :=
  ∀ (c : Command) (s t : State) (r : Report), s.Inv →
    hostCommand c (.on s) = .next (.on t, r) → t.Inv

/-! ### Reset and host commands -/

/-- R217, R231, R232: after POWER_ON, with the default parameters, everything is zero and no
program is loaded; RESET in every run state zeroes all data, `pc`, `sp`, `halted`, the error and
the counters, keeps the program and the parameters, and emits one ResetEvent last. Notes: spec
decision D26; that the counters are cleared D24; the default parameters of State.reset are log
entry 10; the trace is the model field of log entry 4, and the agent order before the ResetEvent
in it is log entry 12; no command in progress is the model field running of log entry 3. -/
def Obligations.PowerOnAndResetValues : Prop :=
  (State.reset.pc = 0 ∧ State.reset.sp = 0 ∧ (∀ a, State.reset.mem.read a = 0) ∧
   State.reset.halted = false ∧ State.reset.lastError = .none ∧
   State.reset.progLoaded = false ∧ State.reset.prog.length = 0 ∧
   State.reset.instrCount = 0 ∧ State.reset.memOpCount = 0 ∧ State.reset.ioOpCount = 0) ∧
  (∀ s : State, s.running = false →
     ∃ t, hostCommand .reset (.on s) = .next (.on t, .nothing) ∧
       t.pc = 0 ∧ t.sp = 0 ∧ (∀ a, t.mem.read a = 0) ∧ t.halted = false ∧
       t.lastError = .none ∧ t.instrCount = 0 ∧ t.memOpCount = 0 ∧ t.ioOpCount = 0 ∧
       t.prog = s.prog ∧ t.progLoaded = s.progLoaded ∧ t.cfg = s.cfg ∧ t.running = false ∧
       t.ports = { s.ports with
         trace := .reset :: .agent .reinitialise :: s.ports.trace })

/-- R233, R234: LOAD of a present, non-empty program of at most `PROG_MAX` words installs it,
clears the execution state and the stack, and keeps the globals and the arrays; any other LOAD
changes only `last_error`. Notes: rejection: spec decision D29; that LOAD keeps globals and arrays
D26, that it clears the counters D24; running is log entry 3. -/
def Obligations.LoadInstallsOrRejects : Prop :=
  ∀ (s : State) (words : Option (List Word)), s.running = false →
    (∀ ws, words = some ws → 1 ≤ ws.length → ws.length ≤ s.cfg.progMax →
      ∃ t, hostCommand (.load words) (.on s) = .next (.on t, .success) ∧
        t.prog = ws ∧ t.progLoaded = true ∧ t.pc = 0 ∧ t.sp = 0 ∧
        (∀ i, t.mem.read (.stack i) = 0) ∧
        (∀ i, t.mem.read (.global i) = s.mem.read (.global i)) ∧
        (∀ a i, t.mem.read (.array a i) = s.mem.read (.array a i)) ∧
        t.halted = false ∧ t.lastError = .none ∧
        t.instrCount = 0 ∧ t.memOpCount = 0 ∧ t.ioOpCount = 0 ∧
        t.cfg = s.cfg ∧ t.running = false ∧ t.ports = s.ports) ∧
    ((words = none ∨ ∃ ws, words = some ws ∧ (ws.length = 0 ∨ s.cfg.progMax < ws.length)) →
      hostCommand (.load words) (.on s) =
        .next (.on { s with lastError := .programNotLoaded }, .failure))

/-- R236, R237: what STEP and RUN do and report in each run state: both are rejected in Empty and
do nothing on a halted block; in Ready, STEP is one step and reports its end, and RUN begins.
R238: RUN_PROGRAM is LOAD and, if that was accepted, RUN. Notes: spec decisions D23 and, for the
rejection, D29; that the report of STEP is read off last_error is log entry 21 (DEDUCED from R22,
R200 and R236); running, and that RUN begins by setting it, is log entry 3; R238 is derived by the
spec. -/
def Obligations.StepAndRunReport : Prop :=
  (∀ s : State, s.running = false →
     (s.progLoaded = false → hostCommand .step (.on s) =
       .next (.on { s with lastError := .programNotLoaded }, .failure)) ∧
     (s.progLoaded = true → s.halted = true →
       hostCommand .step (.on s) = .next (.on s, .notExecuted)) ∧
     (s.progLoaded = true → s.halted = false → ∃ t, step s = .next t ∧
       hostCommand .step (.on s) =
         .next (.on t, if t.lastError = .none then .success else .failure))) ∧
  (∀ s : State, s.running = false →
     (s.progLoaded = false → hostCommand .run (.on s) =
       .next (.on { s with lastError := .programNotLoaded }, .failure)) ∧
     (s.progLoaded = true → s.halted = true →
       hostCommand .run (.on s) = .next (.on s, .notExecuted)) ∧
     (s.progLoaded = true → s.halted = false →
       hostCommand .run (.on s) = .next (.on { s with running := true }, .inProgress))) ∧
  ∀ (s t : State) (words : Option (List Word)) (r : Report), s.running = false →
    hostCommand (.load words) (.on s) = .next (.on t, r) →
    hostCommand (.runProgram words) (.on s) =
      if r = .success then hostCommand .run (.on t) else .next (.on t, r)

/-- R205: a step leaves a Failed block Failed, and so does every command but a RESET and an
accepted LOAD (RUN_PROGRAM, which is LOAD then RUN, is stated by StepAndRunReport); each of these,
as POWER_ON, clears `halted`, the error, `pc`, `sp` and the stack. -/
def Obligations.FailedIsLeftByResetLoadOrPowerOn : Prop :=
  (∀ s t : State, s.runState = .failed → step s = .next t → t.runState = .failed) ∧
  (∀ (s t : State) (c : Command) (r : Report), s.runState = .failed →
    (∀ words, c ≠ .runProgram words) → hostCommand c (.on s) = .next (.on t, r) →
    (StartsOverCommand c s → t.runState = .ready ∧ StartsOver t) ∧
    (¬ StartsOverCommand c s → t.runState = .failed)) ∧
  ∀ (cfg : Config) (p : Ports) (t : State) (r : Report),
    hostCommand .powerOn (.off cfg p) = .next (.on t, r) → StartsOver t

/-- R242, R243, R246: while a RUN is in progress no command has a behaviour, and a block that is
off has one for POWER_ON alone. Notes: spec decision D31; the named faults are the model, log
entry 8, and the teardown as a host command log entry 22. -/
def Obligations.CommandsOutOfPlaceStop : Prop :=
  (∀ c s, s.running = true → hostCommand c (.on s) = .fault .overlappingCommand) ∧
  (∀ c cfg ports, c ≠ .powerOn → hostCommand c (.off cfg ports) = .fault .illegalCommand)
end

