-- ==== Sys2Proof/Laws/Decode.lean ====
section
/-! SUPPORT. The parts of decoding and encoding: the fields of a word, the bytes of a packed
word, the opcode map, the flag bit, and the form of an operation. -/

namespace Sys2Proof

theorem unpack_pack (f : Fields) : unpack (pack f) = f := by
  obtain ⟨a, b, c⟩ := f
  simp only [unpack, pack, Fields.mk.injEq]
  refine ⟨?_, ?_, ?_⟩ <;>
  · apply BitVec.eq_of_getLsbD_eq
    intro i hi
    simp only [BitVec.getLsbD_extractLsb', BitVec.getLsbD_append, hi, decide_true, Bool.true_and]
    split
    · first | omega | (congr 1; omega)
    · try split
      all_goals first | omega | (congr 1; omega)

/-- The bytes of a word, put together again, are the word. -/
theorem joinBytes_eq (w : Word) :
    joinBytes (w.extractLsb' 24 8) (w.extractLsb' 16 8) (w.extractLsb' 8 8)
      (w.extractLsb' 0 8) = w := by
  apply BitVec.eq_of_getLsbD_eq
  intro i hi
  simp only [joinBytes, BitVec.getLsbD_extractLsb', BitVec.getLsbD_append]
  split
  · simp [*]
  · split
    · rw [decide_eq_true (by omega)]; simp; congr 1; omega
    · split
      · rw [decide_eq_true (by omega)]; simp; congr 1; omega
      · rw [decide_eq_true (by omega)]; simp; congr 1; omega

theorem unpackBytes_packBytes (e : Endian) (w : Word) (rest : List Byte) :
    unpackBytes e (packBytes e w ++ rest) = .ok (w, rest) := by
  cases e <;> simp [packBytes, unpackBytes, joinBytes_eq]

/-! ### The opcode map -/

/-- In a map with distinct numbers a lookup finds every listed row. -/
theorem lookup_of_mem {m : List (Byte × Operation)} (h : (m.map Prod.fst).Nodup) {b : Byte}
    {o : Operation} (hm : (b, o) ∈ m) : m.lookup b = some o := by
  induction m with
  | nil => cases hm
  | cons p m ih =>
    obtain ⟨b', o'⟩ := p
    simp only [List.map_cons, List.nodup_cons] at h
    rcases List.mem_cons.mp hm with e | hm
    · cases e; simp [List.lookup]
    · have : (b == b') = false := by
        rw [beq_eq_false_iff_ne]; intro e; exact h.1 (List.mem_map.mpr ⟨(b, o), hm, e⟩)
      simp [List.lookup, this, ih h.2 hm]

theorem mem_of_lookup {m : List (Byte × Operation)} {b : Byte} {o : Operation}
    (h : m.lookup b = some o) : (b, o) ∈ m := by
  induction m with
  | nil => cases h
  | cons p m ih =>
    obtain ⟨b', o'⟩ := p
    simp only [List.lookup] at h
    split at h
    · rename_i hb; cases h; simp [beq_iff_eq.mp hb]
    · exact List.mem_cons_of_mem _ (ih h)

theorem Operation.mem_all (o : Operation) : o ∈ Operation.all := by cases o <;> decide

theorem mem_of_opcodeOf {c : Config} {o : Operation} {b : Byte} (h : c.opcodeOf o = some b) :
    (b, o) ∈ c.opcodeMap := by
  unfold Config.opcodeOf at h
  obtain ⟨⟨b2, o2⟩, h2, e⟩ := Option.map_eq_some_iff.mp h
  have hp := List.find?_some h2
  simp at hp e
  subst hp e
  exact List.mem_of_find?_eq_some h2

/-- A complete map gives every operation a number. -/
theorem opcodeOf_some {c : Config} (h : c.OpcodesComplete) (o : Operation) :
    ∃ b, c.opcodeOf o = some b := by
  obtain ⟨p, hm, rfl⟩ := List.mem_map.mp (h o o.mem_all)
  have hs : (c.opcodeMap.find? (fun q => q.2 == p.2)).isSome :=
    List.find?_isSome.mpr ⟨_, hm, by simp⟩
  obtain ⟨q, hq⟩ := Option.isSome_iff_exists.mp hs
  exact ⟨q.1, by simp [Config.opcodeOf, hq]⟩

/-! ### Flags and forms -/

theorem isSigned_canonicalFlags (c : Config) (s : Bool) : c.isSigned (c.canonicalFlags s) = s := by
  cases s <;> simp [Config.isSigned, Config.canonicalFlags]

theorem formOf_parts (i : Instr) : formOf i.operation i.isSigned i.immediate = i := by
  cases i <;> rfl

theorem formOf_operation (o : Operation) (s : Bool) (n : Imm) : (formOf o s n).operation = o := by
  cases o <;> cases s <;> rfl

end Sys2Proof
end

