-- ==== Sys2Proof/Laws/Memory.lean ====
section
/-! SUPPORT. The laws of the data cells: read after write, and that every memory operation
keeps the canonical form. -/

namespace Sys2Proof.Machine

theorem Addr.lt_irrefl (a : Addr) : a.lt a = false := by
  cases a <;> simp [Addr.lt]

theorem Addr.lt_trans {a b c : Addr} (h₁ : a.lt b = true) (h₂ : b.lt c = true) :
    a.lt c = true := by
  cases a <;> cases b <;> cases c <;> simp_all [Addr.lt] <;> omega

theorem Addr.lt_of_not_lt {a b : Addr} (h : a.lt b = false) (hne : b ≠ a) : b.lt a = true := by
  cases a <;> cases b <;> simp_all [Addr.lt] <;> omega

@[simp] theorem Memory.read_nil (a : Addr) : Memory.read [] a = 0 := rfl

theorem Memory.read_of_not_listed {m : Memory} {a : Addr} (h : ∀ c ∈ m, c.1 ≠ a) :
    m.read a = Memory.unlisted := by
  induction m with
  | nil => rfl
  | cons c rest ih =>
    obtain ⟨b, v⟩ := c
    have hb : a ≠ b := fun e => h (b, v) (by simp) e.symm
    simp only [Memory.read, hb, if_false]
    exact ih fun c hc => h c (by simp [hc])

theorem Memory.read_insert_same {m : Memory} {a : Addr} {w : Word} (h : ∀ c ∈ m, c.1 ≠ a) :
    (Memory.insert a w m).read a = w := by
  induction m with
  | nil => simp [Memory.insert, Memory.read]
  | cons c rest ih =>
    obtain ⟨b, v⟩ := c
    have hb : a ≠ b := fun e => h (b, v) (by simp) e.symm
    simp only [Memory.insert]
    split
    · simp [Memory.read]
    · simp only [Memory.read, hb, if_false]
      exact ih fun c hc => h c (by simp [hc])

theorem Memory.read_insert_other {m : Memory} {a b : Addr} {w : Word} (h : b ≠ a) :
    (Memory.insert a w m).read b = m.read b := by
  induction m with
  | nil => simp [Memory.insert, Memory.read, h]
  | cons c rest ih =>
    obtain ⟨d, v⟩ := c
    simp only [Memory.insert]
    split
    · simp [Memory.read, h]
    · simp only [Memory.read, ih]

theorem Memory.read_filter {m : Memory} {p : Addr → Bool} {b : Addr} (h : p b = true) :
    Memory.read (m.filter fun c => p c.1) b = m.read b := by
  induction m with
  | nil => rfl
  | cons c rest ih =>
    obtain ⟨d, v⟩ := c
    by_cases hd : p d = true
    · simp [Memory.read, hd, ih]
    · have hbd : b ≠ d := fun e => hd (e ▸ h)
      simp [Memory.read, hd, hbd, ih]

/-- A read after a write to the same cell gives the word written (R64). -/
@[simp] theorem Memory.read_write_same (m : Memory) (a : Addr) (w : Word) :
    (m.write a w).read a = w := by
  have hout : ∀ c ∈ m.filter fun c => decide (c.1 ≠ a), c.1 ≠ a := fun c hc => by
    simpa using (List.mem_filter.mp hc).2
  unfold Memory.write
  split
  · rename_i hw; rw [hw]; exact Memory.read_of_not_listed hout
  · exact Memory.read_insert_same hout

/-- A write leaves every other cell alone (R55). -/
theorem Memory.read_write_other (m : Memory) {a b : Addr} (w : Word) (h : b ≠ a) :
    (m.write a w).read b = m.read b := by
  have hf : Memory.read (m.filter fun c => decide (c.1 ≠ a)) b = m.read b :=
    Memory.read_filter (p := fun c => decide (c ≠ a)) (by simpa using h)
  unfold Memory.write
  split
  · exact hf
  · rw [Memory.read_insert_other h]; exact hf

@[simp] theorem Memory.read_write_stack (m : Memory) {i j : Nat} (w : Word) (h : j ≠ i) :
    (m.write (.stack i) w).read (.stack j) = m.read (.stack j) :=
  Memory.read_write_other m w (by simpa using h)

@[simp] theorem Memory.read_write_stack_global (m : Memory) (i j : Nat) (w : Word) :
    (m.write (.stack i) w).read (.global j) = m.read (.global j) :=
  Memory.read_write_other m w (by simp)

@[simp] theorem Memory.read_write_stack_array (m : Memory) (i id j : Nat) (w : Word) :
    (m.write (.stack i) w).read (.array id j) = m.read (.array id j) :=
  Memory.read_write_other m w (by simp)

theorem Memory.mem_insert {m : Memory} {a : Addr} {w : Word} {c : Addr × Word} :
    c ∈ Memory.insert a w m ↔ c = (a, w) ∨ c ∈ m := by
  induction m with
  | nil => simp [Memory.insert]
  | cons d rest ih =>
    simp only [Memory.insert]
    split
    · simp
    · simp only [List.mem_cons, ih]; tauto

/-- A cell listed after a write is the one written or was listed before. -/
theorem Memory.mem_write {m : Memory} {a : Addr} {w : Word} {c : Addr × Word}
    (h : c ∈ m.write a w) : c = (a, w) ∨ c ∈ m := by
  unfold Memory.write at h
  split at h
  · exact .inr (List.mem_of_mem_filter h)
  · exact (Memory.mem_insert.mp h).imp id List.mem_of_mem_filter

theorem Memory.wf_filter {m : Memory} (p : Addr × Word → Bool) (h : m.wf) :
    Memory.wf (m.filter p) :=
  ⟨h.1.filter p, fun c hc => h.2 c (List.mem_of_mem_filter hc)⟩

theorem Memory.wf_insert {m : Memory} {a : Addr} {w : Word} (h : m.wf) (ha : ∀ c ∈ m, c.1 ≠ a)
    (hw : w ≠ Memory.unlisted) : Memory.wf (Memory.insert a w m) := by
  refine ⟨?_, fun c hc => ?_⟩
  · obtain ⟨hs, -⟩ := h
    induction m with
    | nil => simp [Memory.insert]
    | cons d rest ih =>
      obtain ⟨hd, hrest⟩ := List.pairwise_cons.mp hs
      simp only [Memory.insert]
      split
      · rename_i hlt
        refine List.pairwise_cons.mpr ⟨fun c hc => ?_, hs⟩
        rcases List.mem_cons.mp hc with rfl | hc
        · exact hlt
        · exact Addr.lt_trans hlt (hd c hc)
      · rename_i hlt
        refine List.pairwise_cons.mpr
          ⟨fun c hc => ?_, ih (fun c hc => ha c (by simp [hc])) hrest⟩
        rcases Memory.mem_insert.mp hc with rfl | hc
        · exact Addr.lt_of_not_lt (by simpa using hlt) (ha d (by simp))
        · exact hd c hc
  · rcases Memory.mem_insert.mp hc with rfl | hc
    · exact hw
    · exact h.2 c hc

/-- A write keeps the canonical form. -/
theorem Memory.wf_write {m : Memory} (h : m.wf) (a : Addr) (w : Word) :
    Memory.wf (m.write a w) := by
  unfold Memory.write
  split
  · exact Memory.wf_filter _ h
  · rename_i hw
    exact Memory.wf_insert (Memory.wf_filter _ h)
      (fun c hc => by simpa using (List.mem_filter.mp hc).2) hw

/-- Clearing the stack keeps the canonical form. -/
theorem Memory.wf_clearStack {m : Memory} (h : m.wf) : m.clearStack.wf := Memory.wf_filter _ h

/-- The memory right after POWER_ON has the canonical form. -/
theorem Memory.wf_reset : State.reset.mem.wf := by decide

/-- After a LOAD every stack word reads zero (R231). -/
theorem Memory.read_clearStack_stack (m : Memory) (i : Nat) :
    m.clearStack.read (.stack i) = 0 := by
  refine Memory.read_of_not_listed fun c hc e => ?_
  have := (List.mem_filter.mp hc).2
  simp [e, Addr.isStack] at this

/-- A LOAD keeps every global and every array element (R231). -/
theorem Memory.read_clearStack_other (m : Memory) {a : Addr} (h : a.isStack = false) :
    m.clearStack.read a = m.read a :=
  Memory.read_filter (p := fun b => !b.isStack) (by simp [h])

end Sys2Proof.Machine
end

