-- ==== Sys2Proof/Laws/State.lean ====
section
/-! SUPPORT. What each update of the state leaves in each field: one lemma a field, so that no
later proof unfolds a record update. -/

namespace Sys2Proof.Machine

/-! ### `drop` -/

@[simp] theorem State.drop_cfg (s : State) (n : Nat) : (s.drop n).cfg = s.cfg := rfl
@[simp] theorem State.drop_pc (s : State) (n : Nat) : (s.drop n).pc = s.pc := rfl
@[simp] theorem State.drop_sp (s : State) (n : Nat) : (s.drop n).sp = s.sp - n := rfl
@[simp] theorem State.drop_mem (s : State) (n : Nat) : (s.drop n).mem = s.mem := rfl
@[simp] theorem State.drop_halted (s : State) (n : Nat) : (s.drop n).halted = s.halted := rfl
@[simp] theorem State.drop_lastError (s : State) (n : Nat) : (s.drop n).lastError = s.lastError := rfl
@[simp] theorem State.drop_progLoaded (s : State) (n : Nat) : (s.drop n).progLoaded = s.progLoaded := rfl
@[simp] theorem State.drop_prog (s : State) (n : Nat) : (s.drop n).prog = s.prog := rfl
@[simp] theorem State.drop_instrCount (s : State) (n : Nat) : (s.drop n).instrCount = s.instrCount := rfl
@[simp] theorem State.drop_memOpCount (s : State) (n : Nat) : (s.drop n).memOpCount = s.memOpCount := rfl
@[simp] theorem State.drop_ioOpCount (s : State) (n : Nat) : (s.drop n).ioOpCount = s.ioOpCount := rfl
@[simp] theorem State.drop_running (s : State) (n : Nat) : (s.drop n).running = s.running := rfl
@[simp] theorem State.drop_ports (s : State) (n : Nat) : (s.drop n).ports = s.ports := rfl

/-! ### `push` -/

@[simp] theorem State.push_cfg (s : State) (w : Word) : (s.push w).cfg = s.cfg := rfl
@[simp] theorem State.push_pc (s : State) (w : Word) : (s.push w).pc = s.pc := rfl
@[simp] theorem State.push_sp (s : State) (w : Word) : (s.push w).sp = s.sp + 1 := rfl
@[simp] theorem State.push_mem (s : State) (w : Word) : (s.push w).mem = s.mem.write (.stack s.sp) w := rfl
@[simp] theorem State.push_halted (s : State) (w : Word) : (s.push w).halted = s.halted := rfl
@[simp] theorem State.push_lastError (s : State) (w : Word) : (s.push w).lastError = s.lastError := rfl
@[simp] theorem State.push_progLoaded (s : State) (w : Word) : (s.push w).progLoaded = s.progLoaded := rfl
@[simp] theorem State.push_prog (s : State) (w : Word) : (s.push w).prog = s.prog := rfl
@[simp] theorem State.push_instrCount (s : State) (w : Word) : (s.push w).instrCount = s.instrCount := rfl
@[simp] theorem State.push_memOpCount (s : State) (w : Word) : (s.push w).memOpCount = s.memOpCount := rfl
@[simp] theorem State.push_ioOpCount (s : State) (w : Word) : (s.push w).ioOpCount = s.ioOpCount := rfl
@[simp] theorem State.push_running (s : State) (w : Word) : (s.push w).running = s.running := rfl
@[simp] theorem State.push_ports (s : State) (w : Word) : (s.push w).ports = s.ports := rfl

/-! ### `store` -/

@[simp] theorem State.store_cfg (s : State) (a : Addr) (w : Word) : (s.store a w).cfg = s.cfg := rfl
@[simp] theorem State.store_pc (s : State) (a : Addr) (w : Word) : (s.store a w).pc = s.pc := rfl
@[simp] theorem State.store_sp (s : State) (a : Addr) (w : Word) : (s.store a w).sp = s.sp := rfl
@[simp] theorem State.store_mem (s : State) (a : Addr) (w : Word) : (s.store a w).mem = s.mem.write a w := rfl
@[simp] theorem State.store_halted (s : State) (a : Addr) (w : Word) : (s.store a w).halted = s.halted := rfl
@[simp] theorem State.store_lastError (s : State) (a : Addr) (w : Word) : (s.store a w).lastError = s.lastError := rfl
@[simp] theorem State.store_progLoaded (s : State) (a : Addr) (w : Word) : (s.store a w).progLoaded = s.progLoaded := rfl
@[simp] theorem State.store_prog (s : State) (a : Addr) (w : Word) : (s.store a w).prog = s.prog := rfl
@[simp] theorem State.store_instrCount (s : State) (a : Addr) (w : Word) : (s.store a w).instrCount = s.instrCount := rfl
@[simp] theorem State.store_memOpCount (s : State) (a : Addr) (w : Word) : (s.store a w).memOpCount = s.memOpCount := rfl
@[simp] theorem State.store_ioOpCount (s : State) (a : Addr) (w : Word) : (s.store a w).ioOpCount = s.ioOpCount := rfl
@[simp] theorem State.store_running (s : State) (a : Addr) (w : Word) : (s.store a w).running = s.running := rfl
@[simp] theorem State.store_ports (s : State) (a : Addr) (w : Word) : (s.store a w).ports = s.ports := rfl

/-! ### `jump` -/

@[simp] theorem State.jump_cfg (s : State) (t : Word) : (s.jump t).cfg = s.cfg := rfl
@[simp] theorem State.jump_pc (s : State) (t : Word) : (s.jump t).pc = t := rfl
@[simp] theorem State.jump_sp (s : State) (t : Word) : (s.jump t).sp = s.sp := rfl
@[simp] theorem State.jump_mem (s : State) (t : Word) : (s.jump t).mem = s.mem := rfl
@[simp] theorem State.jump_halted (s : State) (t : Word) : (s.jump t).halted = s.halted := rfl
@[simp] theorem State.jump_lastError (s : State) (t : Word) : (s.jump t).lastError = s.lastError := rfl
@[simp] theorem State.jump_progLoaded (s : State) (t : Word) : (s.jump t).progLoaded = s.progLoaded := rfl
@[simp] theorem State.jump_prog (s : State) (t : Word) : (s.jump t).prog = s.prog := rfl
@[simp] theorem State.jump_instrCount (s : State) (t : Word) : (s.jump t).instrCount = s.instrCount := rfl
@[simp] theorem State.jump_memOpCount (s : State) (t : Word) : (s.jump t).memOpCount = s.memOpCount := rfl
@[simp] theorem State.jump_ioOpCount (s : State) (t : Word) : (s.jump t).ioOpCount = s.ioOpCount := rfl
@[simp] theorem State.jump_running (s : State) (t : Word) : (s.jump t).running = s.running := rfl
@[simp] theorem State.jump_ports (s : State) (t : Word) : (s.jump t).ports = s.ports := rfl

/-! ### `halt` -/

@[simp] theorem State.halt_cfg (s : State) : s.halt.cfg = s.cfg := rfl
@[simp] theorem State.halt_pc (s : State) : s.halt.pc = s.pc := rfl
@[simp] theorem State.halt_sp (s : State) : s.halt.sp = s.sp := rfl
@[simp] theorem State.halt_mem (s : State) : s.halt.mem = s.mem := rfl
@[simp] theorem State.halt_halted (s : State) : s.halt.halted = true := rfl
@[simp] theorem State.halt_lastError (s : State) : s.halt.lastError = s.lastError := rfl
@[simp] theorem State.halt_progLoaded (s : State) : s.halt.progLoaded = s.progLoaded := rfl
@[simp] theorem State.halt_prog (s : State) : s.halt.prog = s.prog := rfl
@[simp] theorem State.halt_instrCount (s : State) : s.halt.instrCount = s.instrCount := rfl
@[simp] theorem State.halt_memOpCount (s : State) : s.halt.memOpCount = s.memOpCount := rfl
@[simp] theorem State.halt_ioOpCount (s : State) : s.halt.ioOpCount = s.ioOpCount := rfl
@[simp] theorem State.halt_running (s : State) : s.halt.running = s.running := rfl
@[simp] theorem State.halt_ports (s : State) : s.halt.ports = s.ports := rfl

/-! ### `countMemOp` -/

@[simp] theorem State.countMemOp_cfg (s : State) : s.countMemOp.cfg = s.cfg := rfl
@[simp] theorem State.countMemOp_pc (s : State) : s.countMemOp.pc = s.pc := rfl
@[simp] theorem State.countMemOp_sp (s : State) : s.countMemOp.sp = s.sp := rfl
@[simp] theorem State.countMemOp_mem (s : State) : s.countMemOp.mem = s.mem := rfl
@[simp] theorem State.countMemOp_halted (s : State) : s.countMemOp.halted = s.halted := rfl
@[simp] theorem State.countMemOp_lastError (s : State) : s.countMemOp.lastError = s.lastError := rfl
@[simp] theorem State.countMemOp_progLoaded (s : State) : s.countMemOp.progLoaded = s.progLoaded := rfl
@[simp] theorem State.countMemOp_prog (s : State) : s.countMemOp.prog = s.prog := rfl
@[simp] theorem State.countMemOp_instrCount (s : State) : s.countMemOp.instrCount = s.instrCount := rfl
@[simp] theorem State.countMemOp_memOpCount (s : State) : s.countMemOp.memOpCount = s.memOpCount + 1 := rfl
@[simp] theorem State.countMemOp_ioOpCount (s : State) : s.countMemOp.ioOpCount = s.ioOpCount := rfl
@[simp] theorem State.countMemOp_running (s : State) : s.countMemOp.running = s.running := rfl
@[simp] theorem State.countMemOp_ports (s : State) : s.countMemOp.ports = s.ports := rfl

/-! ### `countIoOp` -/

@[simp] theorem State.countIoOp_cfg (s : State) : s.countIoOp.cfg = s.cfg := rfl
@[simp] theorem State.countIoOp_pc (s : State) : s.countIoOp.pc = s.pc := rfl
@[simp] theorem State.countIoOp_sp (s : State) : s.countIoOp.sp = s.sp := rfl
@[simp] theorem State.countIoOp_mem (s : State) : s.countIoOp.mem = s.mem := rfl
@[simp] theorem State.countIoOp_halted (s : State) : s.countIoOp.halted = s.halted := rfl
@[simp] theorem State.countIoOp_lastError (s : State) : s.countIoOp.lastError = s.lastError := rfl
@[simp] theorem State.countIoOp_progLoaded (s : State) : s.countIoOp.progLoaded = s.progLoaded := rfl
@[simp] theorem State.countIoOp_prog (s : State) : s.countIoOp.prog = s.prog := rfl
@[simp] theorem State.countIoOp_instrCount (s : State) : s.countIoOp.instrCount = s.instrCount := rfl
@[simp] theorem State.countIoOp_memOpCount (s : State) : s.countIoOp.memOpCount = s.memOpCount := rfl
@[simp] theorem State.countIoOp_ioOpCount (s : State) : s.countIoOp.ioOpCount = s.ioOpCount + 1 := rfl
@[simp] theorem State.countIoOp_running (s : State) : s.countIoOp.running = s.running := rfl
@[simp] theorem State.countIoOp_ports (s : State) : s.countIoOp.ports = s.ports := rfl

/-! ### `fail` -/

@[simp] theorem State.fail_cfg (e : ErrorCode) (s : State) : (s.fail e).cfg = s.cfg := rfl
@[simp] theorem State.fail_pc (e : ErrorCode) (s : State) : (s.fail e).pc = s.pc := rfl
@[simp] theorem State.fail_sp (e : ErrorCode) (s : State) : (s.fail e).sp = s.sp := rfl
@[simp] theorem State.fail_mem (e : ErrorCode) (s : State) : (s.fail e).mem = s.mem := rfl
@[simp] theorem State.fail_halted (e : ErrorCode) (s : State) : (s.fail e).halted = true := rfl
@[simp] theorem State.fail_lastError (e : ErrorCode) (s : State) : (s.fail e).lastError = e := rfl
@[simp] theorem State.fail_progLoaded (e : ErrorCode) (s : State) : (s.fail e).progLoaded = s.progLoaded := rfl
@[simp] theorem State.fail_prog (e : ErrorCode) (s : State) : (s.fail e).prog = s.prog := rfl
@[simp] theorem State.fail_instrCount (e : ErrorCode) (s : State) : (s.fail e).instrCount = s.instrCount := rfl
@[simp] theorem State.fail_memOpCount (e : ErrorCode) (s : State) : (s.fail e).memOpCount = s.memOpCount := rfl
@[simp] theorem State.fail_ioOpCount (e : ErrorCode) (s : State) : (s.fail e).ioOpCount = s.ioOpCount := rfl
@[simp] theorem State.fail_running (e : ErrorCode) (s : State) : (s.fail e).running = s.running := rfl
@[simp] theorem State.fail_ports (e : ErrorCode) (s : State) : (s.fail e).ports = s.ports := rfl

/-! ### `complete` -/

@[simp] theorem State.complete_cfg (s : State) : s.complete.cfg = s.cfg := rfl
@[simp] theorem State.complete_pc (s : State) : s.complete.pc = s.pc := rfl
@[simp] theorem State.complete_sp (s : State) : s.complete.sp = s.sp := rfl
@[simp] theorem State.complete_mem (s : State) : s.complete.mem = s.mem := rfl
@[simp] theorem State.complete_halted (s : State) : s.complete.halted = s.halted := rfl
@[simp] theorem State.complete_lastError (s : State) : s.complete.lastError = .none := rfl
@[simp] theorem State.complete_progLoaded (s : State) : s.complete.progLoaded = s.progLoaded := rfl
@[simp] theorem State.complete_prog (s : State) : s.complete.prog = s.prog := rfl
@[simp] theorem State.complete_instrCount (s : State) : s.complete.instrCount = s.instrCount + 1 := rfl
@[simp] theorem State.complete_memOpCount (s : State) : s.complete.memOpCount = s.memOpCount := rfl
@[simp] theorem State.complete_ioOpCount (s : State) : s.complete.ioOpCount = s.ioOpCount := rfl
@[simp] theorem State.complete_running (s : State) : s.complete.running = s.running := rfl
@[simp] theorem State.complete_ports (s : State) : s.complete.ports = s.ports := rfl

/-! ### `emit` -/

@[simp] theorem State.emit_cfg (o : Output) (s : State) : (s.emit o).cfg = s.cfg := rfl
@[simp] theorem State.emit_pc (o : Output) (s : State) : (s.emit o).pc = s.pc := rfl
@[simp] theorem State.emit_sp (o : Output) (s : State) : (s.emit o).sp = s.sp := rfl
@[simp] theorem State.emit_mem (o : Output) (s : State) : (s.emit o).mem = s.mem := rfl
@[simp] theorem State.emit_halted (o : Output) (s : State) : (s.emit o).halted = s.halted := rfl
@[simp] theorem State.emit_lastError (o : Output) (s : State) : (s.emit o).lastError = s.lastError := rfl
@[simp] theorem State.emit_progLoaded (o : Output) (s : State) : (s.emit o).progLoaded = s.progLoaded := rfl
@[simp] theorem State.emit_prog (o : Output) (s : State) : (s.emit o).prog = s.prog := rfl
@[simp] theorem State.emit_instrCount (o : Output) (s : State) : (s.emit o).instrCount = s.instrCount := rfl
@[simp] theorem State.emit_memOpCount (o : Output) (s : State) : (s.emit o).memOpCount = s.memOpCount := rfl
@[simp] theorem State.emit_ioOpCount (o : Output) (s : State) : (s.emit o).ioOpCount = s.ioOpCount := rfl
@[simp] theorem State.emit_running (o : Output) (s : State) : (s.emit o).running = s.running := rfl
@[simp] theorem State.emit_ports (o : Output) (s : State) : (s.emit o).ports = { s.ports with trace := o :: s.ports.trace } := rfl

/-! ### `asked` -/

@[simp] theorem State.asked_cfg (s : State) (r : IoRequest) : (s.asked r).cfg = s.cfg := rfl
@[simp] theorem State.asked_pc (s : State) (r : IoRequest) : (s.asked r).pc = s.pc := rfl
@[simp] theorem State.asked_sp (s : State) (r : IoRequest) : (s.asked r).sp = s.sp := rfl
@[simp] theorem State.asked_mem (s : State) (r : IoRequest) : (s.asked r).mem = s.mem := rfl
@[simp] theorem State.asked_halted (s : State) (r : IoRequest) : (s.asked r).halted = s.halted := rfl
@[simp] theorem State.asked_lastError (s : State) (r : IoRequest) : (s.asked r).lastError = s.lastError := rfl
@[simp] theorem State.asked_progLoaded (s : State) (r : IoRequest) : (s.asked r).progLoaded = s.progLoaded := rfl
@[simp] theorem State.asked_prog (s : State) (r : IoRequest) : (s.asked r).prog = s.prog := rfl
@[simp] theorem State.asked_instrCount (s : State) (r : IoRequest) : (s.asked r).instrCount = s.instrCount := rfl
@[simp] theorem State.asked_memOpCount (s : State) (r : IoRequest) : (s.asked r).memOpCount = s.memOpCount := rfl
@[simp] theorem State.asked_ioOpCount (s : State) (r : IoRequest) : (s.asked r).ioOpCount = s.ioOpCount := rfl
@[simp] theorem State.asked_running (s : State) (r : IoRequest) : (s.asked r).running = s.running := rfl
@[simp] theorem State.asked_ports (s : State) (r : IoRequest) : (s.asked r).ports = s.ports.after r := rfl

/-! ### `endRun` -/

@[simp] theorem State.endRun_cfg (s : State) : s.endRun.cfg = s.cfg := rfl
@[simp] theorem State.endRun_pc (s : State) : s.endRun.pc = s.pc := rfl
@[simp] theorem State.endRun_sp (s : State) : s.endRun.sp = s.sp := rfl
@[simp] theorem State.endRun_mem (s : State) : s.endRun.mem = s.mem := rfl
@[simp] theorem State.endRun_halted (s : State) : s.endRun.halted = s.halted := rfl
@[simp] theorem State.endRun_lastError (s : State) : s.endRun.lastError = s.lastError := rfl
@[simp] theorem State.endRun_progLoaded (s : State) : s.endRun.progLoaded = s.progLoaded := rfl
@[simp] theorem State.endRun_prog (s : State) : s.endRun.prog = s.prog := rfl
@[simp] theorem State.endRun_instrCount (s : State) : s.endRun.instrCount = s.instrCount := rfl
@[simp] theorem State.endRun_memOpCount (s : State) : s.endRun.memOpCount = s.memOpCount := rfl
@[simp] theorem State.endRun_ioOpCount (s : State) : s.endRun.ioOpCount = s.ioOpCount := rfl
@[simp] theorem State.endRun_running (s : State) : s.endRun.running = false := rfl

/-! ### `hostReset` -/

@[simp] theorem State.hostReset_cfg (s : State) : s.hostReset.cfg = s.cfg := rfl
@[simp] theorem State.hostReset_pc (s : State) : s.hostReset.pc = 0 := rfl
@[simp] theorem State.hostReset_sp (s : State) : s.hostReset.sp = 0 := rfl
@[simp] theorem State.hostReset_mem (s : State) : s.hostReset.mem = [] := rfl
@[simp] theorem State.hostReset_halted (s : State) : s.hostReset.halted = false := rfl
@[simp] theorem State.hostReset_lastError (s : State) : s.hostReset.lastError = .none := rfl
@[simp] theorem State.hostReset_progLoaded (s : State) : s.hostReset.progLoaded = s.progLoaded := rfl
@[simp] theorem State.hostReset_prog (s : State) : s.hostReset.prog = s.prog := rfl
@[simp] theorem State.hostReset_instrCount (s : State) : s.hostReset.instrCount = 0 := rfl
@[simp] theorem State.hostReset_memOpCount (s : State) : s.hostReset.memOpCount = 0 := rfl
@[simp] theorem State.hostReset_ioOpCount (s : State) : s.hostReset.ioOpCount = 0 := rfl
@[simp] theorem State.hostReset_running (s : State) : s.hostReset.running = s.running := rfl
@[simp] theorem State.hostReset_ports (s : State) : s.hostReset.ports = { s.ports with trace := .reset :: .agent .reinitialise :: s.ports.trace } := rfl

/-! ### `install` -/

@[simp] theorem State.install_cfg (s : State) (ws : List Word) : (s.install ws).cfg = s.cfg := rfl
@[simp] theorem State.install_pc (s : State) (ws : List Word) : (s.install ws).pc = 0 := rfl
@[simp] theorem State.install_sp (s : State) (ws : List Word) : (s.install ws).sp = 0 := rfl
@[simp] theorem State.install_mem (s : State) (ws : List Word) : (s.install ws).mem = s.mem.clearStack := rfl
@[simp] theorem State.install_halted (s : State) (ws : List Word) : (s.install ws).halted = false := rfl
@[simp] theorem State.install_lastError (s : State) (ws : List Word) : (s.install ws).lastError = .none := rfl
@[simp] theorem State.install_progLoaded (s : State) (ws : List Word) : (s.install ws).progLoaded = true := rfl
@[simp] theorem State.install_prog (s : State) (ws : List Word) : (s.install ws).prog = ws := rfl
@[simp] theorem State.install_instrCount (s : State) (ws : List Word) : (s.install ws).instrCount = 0 := rfl
@[simp] theorem State.install_memOpCount (s : State) (ws : List Word) : (s.install ws).memOpCount = 0 := rfl
@[simp] theorem State.install_ioOpCount (s : State) (ws : List Word) : (s.install ws).ioOpCount = 0 := rfl
@[simp] theorem State.install_running (s : State) (ws : List Word) : (s.install ws).running = s.running := rfl
@[simp] theorem State.install_ports (s : State) (ws : List Word) : (s.install ws).ports = s.ports := rfl

/-! ### `rejectCommand` -/

@[simp] theorem State.rejectCommand_cfg (s : State) : s.rejectCommand.cfg = s.cfg := rfl
@[simp] theorem State.rejectCommand_pc (s : State) : s.rejectCommand.pc = s.pc := rfl
@[simp] theorem State.rejectCommand_sp (s : State) : s.rejectCommand.sp = s.sp := rfl
@[simp] theorem State.rejectCommand_mem (s : State) : s.rejectCommand.mem = s.mem := rfl
@[simp] theorem State.rejectCommand_halted (s : State) : s.rejectCommand.halted = s.halted := rfl
@[simp] theorem State.rejectCommand_lastError (s : State) : s.rejectCommand.lastError = .programNotLoaded := rfl
@[simp] theorem State.rejectCommand_progLoaded (s : State) : s.rejectCommand.progLoaded = s.progLoaded := rfl
@[simp] theorem State.rejectCommand_prog (s : State) : s.rejectCommand.prog = s.prog := rfl
@[simp] theorem State.rejectCommand_instrCount (s : State) : s.rejectCommand.instrCount = s.instrCount := rfl
@[simp] theorem State.rejectCommand_memOpCount (s : State) : s.rejectCommand.memOpCount = s.memOpCount := rfl
@[simp] theorem State.rejectCommand_ioOpCount (s : State) : s.rejectCommand.ioOpCount = s.ioOpCount := rfl
@[simp] theorem State.rejectCommand_running (s : State) : s.rejectCommand.running = s.running := rfl
@[simp] theorem State.rejectCommand_ports (s : State) : s.rejectCommand.ports = s.ports := rfl

/-! ### `advance` -/

@[simp] theorem State.advance_cfg (s : State) : s.advance.cfg = s.cfg := rfl
@[simp] theorem State.advance_pc (s : State) : s.advance.pc = s.pc + 1 := rfl
@[simp] theorem State.advance_sp (s : State) : s.advance.sp = s.sp := rfl
@[simp] theorem State.advance_mem (s : State) : s.advance.mem = s.mem := rfl
@[simp] theorem State.advance_halted (s : State) : s.advance.halted = s.halted := rfl
@[simp] theorem State.advance_lastError (s : State) : s.advance.lastError = s.lastError := rfl
@[simp] theorem State.advance_progLoaded (s : State) : s.advance.progLoaded = s.progLoaded := rfl
@[simp] theorem State.advance_prog (s : State) : s.advance.prog = s.prog := rfl
@[simp] theorem State.advance_instrCount (s : State) : s.advance.instrCount = s.instrCount := rfl
@[simp] theorem State.advance_memOpCount (s : State) : s.advance.memOpCount = s.memOpCount := rfl
@[simp] theorem State.advance_ioOpCount (s : State) : s.advance.ioOpCount = s.ioOpCount := rfl
@[simp] theorem State.advance_running (s : State) : s.advance.running = s.running := rfl
@[simp] theorem State.advance_ports (s : State) : s.advance.ports = s.ports := rfl

/-! ### `failNoInstr` -/

@[simp] theorem State.failNoInstr_cfg (s : State) : s.failNoInstr.cfg = s.cfg := rfl
@[simp] theorem State.failNoInstr_pc (s : State) : s.failNoInstr.pc = s.pc := rfl
@[simp] theorem State.failNoInstr_sp (s : State) : s.failNoInstr.sp = s.sp := rfl
@[simp] theorem State.failNoInstr_mem (s : State) : s.failNoInstr.mem = s.mem := rfl
@[simp] theorem State.failNoInstr_halted (s : State) : s.failNoInstr.halted = true := rfl
@[simp] theorem State.failNoInstr_lastError (s : State) : s.failNoInstr.lastError = .invalidJump := rfl
@[simp] theorem State.failNoInstr_progLoaded (s : State) : s.failNoInstr.progLoaded = s.progLoaded := rfl
@[simp] theorem State.failNoInstr_prog (s : State) : s.failNoInstr.prog = s.prog := rfl
@[simp] theorem State.failNoInstr_instrCount (s : State) : s.failNoInstr.instrCount = s.instrCount := rfl
@[simp] theorem State.failNoInstr_memOpCount (s : State) : s.failNoInstr.memOpCount = s.memOpCount := rfl
@[simp] theorem State.failNoInstr_ioOpCount (s : State) : s.failNoInstr.ioOpCount = s.ioOpCount := rfl
@[simp] theorem State.failNoInstr_running (s : State) : s.failNoInstr.running = s.running := rfl
@[simp] theorem State.failNoInstr_ports (s : State) : s.failNoInstr.ports = s.ports := rfl

@[simp] theorem State.endRun_ports (s : State) : s.endRun.ports = { s.ports with
    draws := s.ports.draws + 1
    trace := .completion s.instrCount (Config.elapsedMs s.ports.draws) :: s.ports.trace } := rfl

/-! ### What is read through an update -/

@[simp] theorem State.asked_peek (s : State) (r : IoRequest) (k : Nat) : (s.asked r).peek k = s.peek k := rfl
@[simp] theorem State.advance_peek (s : State) (k : Nat) : s.advance.peek k = s.peek k := rfl
@[simp] theorem Ports.after_trace (p : Ports) (r : IoRequest) :
    (p.after r).trace = .request r (p.answer r) :: p.trace := rfl

end Sys2Proof.Machine
end

