-- ==== Sys2Proof/Laws/Ops.lean ====
section
/-! SUPPORT. For each shared operation, once, everything it can do: how a rule ends under each
check, what an I/O request leaves, and what a push, a drop and a store leave in the cells. -/

namespace Sys2Proof.Machine

/-! ### How a rule ends -/

theorem settle_eq_next {r : Result} {t : State} : settle r = .next t ↔ r.finish = t := by
  simp [settle]

@[simp] theorem finish_done (s : State) : (Result.done s).finish = s.complete := rfl

@[simp] theorem finish_raised (e : ErrorCode) (s : State) :
    (Result.raised e s).finish = s.fail e := rfl

theorem need_of_lt {n : Nat} {s : State} (h : s.sp < n) (k : Result) :
    need n s k = .raised .stackUnderflow s := by simp [need, h]

theorem need_of_le {n : Nat} {s : State} (h : n ≤ s.sp) (k : Result) : need n s k = k := by
  simp [need, Nat.not_lt.mpr h]

theorem room_of_lt {n : Nat} {s : State} (h : s.cfg.stackCapacity < s.sp + n) (k : Result) :
    room n s k = .raised .stackOverflow s := by simp [room, h]

theorem room_of_le {n : Nat} {s : State} (h : s.sp + n ≤ s.cfg.stackCapacity) (k : Result) :
    room n s k = k := by simp [room, Nat.not_lt.mpr h]

@[simp] theorem check_true (e : ErrorCode) (s : State) (k : Result) : check true e s k = k := rfl

@[simp] theorem check_false (e : ErrorCode) (s : State) (k : Result) :
    check false e s k = .raised e s := rfl

theorem finish_need (n : Nat) (s : State) (k : Result) :
    (need n s k).finish = if s.sp < n then s.fail .stackUnderflow else k.finish := by
  unfold need; split <;> rfl

theorem finish_room (n : Nat) (s : State) (k : Result) :
    (room n s k).finish =
      if s.cfg.stackCapacity < s.sp + n then s.fail .stackOverflow else k.finish := by
  unfold room; split <;> rfl

theorem finish_check (ok : Bool) (e : ErrorCode) (s : State) (k : Result) :
    (check ok e s k).finish = if ok = true then k.finish else s.fail e := by
  cases ok <;> rfl

/-- A failure is the failed state of the statements. -/
theorem fail_eq_failedState (s : State) (e : ErrorCode) : s.fail e = failedState s e s.ports := rfl

theorem asked_fail_eq (s : State) (r : IoRequest) (e : ErrorCode) :
    (s.asked r).fail e = failedState s e (s.ports.after r) := rfl

/-! ### The port -/

/-- A request's answer and the ports after it are those of the statements. -/
theorem answered_iff {s : State} {r : IoRequest} {a : IoAnswer} {p : Ports} :
    Answered s r a p ↔ s.ports.answer r = a ∧ s.ports.after r = p := by
  unfold Answered Ports.after Ports.answer
  cases h : s.ports.answers with
  | nil =>
    constructor
    · rintro (⟨rest, hr, -⟩ | ⟨-, rfl, rfl⟩)
      · cases hr
      · simp
    · rintro ⟨rfl, rfl⟩; exact .inr ⟨rfl, rfl, by simp⟩
  | cons b rest =>
    simp only [List.cons.injEq, reduceCtorEq, false_and, or_false]
    constructor
    · rintro ⟨rest', ⟨rfl, rfl⟩, rfl⟩; simp
    · rintro ⟨rfl, rfl⟩; exact ⟨rest, ⟨rfl, rfl⟩, by simp⟩

theorem transact_of_fail {s : State} {r : IoRequest} (h : s.ports.answer r = .fail)
    (writes : Word → State → State) :
    transact r s writes = .raised .ioFailure (s.asked r) := by simp [transact, h]

theorem transact_of_ok {s : State} {r : IoRequest} {v : Word} (h : s.ports.answer r = .ok v)
    (writes : Word → State → State) :
    transact r s writes = .done (writes v (s.asked r)).countIoOp := by simp [transact, h]

/-- Everything a transaction can end in. -/
theorem finish_transact_cases (r : IoRequest) (s : State) (writes : Word → State → State) :
    (s.ports.answer r = .fail ∧
      (transact r s writes).finish = (s.asked r).fail .ioFailure) ∨
    ∃ v, s.ports.answer r = .ok v ∧
      (transact r s writes).finish = (writes v (s.asked r)).countIoOp.complete := by
  cases h : s.ports.answer r with
  | fail => exact .inl ⟨rfl, by simp [transact, h]⟩
  | ok v => exact .inr ⟨v, rfl, by simp [transact, h]⟩

/-! ### The cells -/

theorem peek_push_zero (s : State) (w : Word) : (s.push w).peek 0 = w := by
  simp [State.peek]

/-- A push changes one cell. -/
theorem read_push_other (s : State) (w : Word) {a : Addr} (h : a ≠ .stack s.sp) :
    (s.push w).mem.read a = s.mem.read a := Memory.read_write_other _ _ h

/-- A store changes one cell. -/
theorem read_store_other (s : State) {a b : Addr} (w : Word) (h : b ≠ a) :
    (s.store a w).mem.read b = s.mem.read b := Memory.read_write_other _ _ h

/-! ### How words are read -/

@[simp] theorem toNat_zext32 (n : Imm) : (zext32 n).toNat = n.toNat := by
  have := n.isLt
  simp only [zext32, BitVec.toNat_setWidth]
  omega

theorem zext32_eq_ofNat (n : Imm) : zext32 n = BitVec.ofNat 32 n.toNat := by
  apply BitVec.eq_of_toNat_eq
  simp [zext32]

theorem addWords_eq (a b : Word) : addWords a b = a + b := by
  simp [addWords, wrap32, BitVec.ofInt_add]

theorem subWords_eq (a b : Word) : subWords a b = a - b := by
  simp only [subWords, wrap32, Int.sub_eq_add_neg, BitVec.ofInt_add, BitVec.ofInt_neg,
    BitVec.ofInt_toInt, BitVec.sub_eq_add_neg]

theorem mulWords_eq (a b : Word) : mulWords a b = a * b := by
  simp [mulWords, wrap32, BitVec.ofInt_mul]

/-- A valid target of an immediate is below `prog_len` (R140). -/
theorem targetOk_zext32 (s : State) (n : Imm) :
    targetOk s (zext32 n) = decide (n.toNat < s.prog.length) := by
  simp only [targetOk, u32, toNat_zext32]

/-- A valid target is below `prog_len` (R140). -/
theorem targetOk_iff {s : State} {t : Word} : targetOk s t = true ↔ t.toNat < s.prog.length := by
  simp only [targetOk, u32, decide_eq_true_eq]

@[simp] theorem globalCell_eq (n : Imm) : globalCell n = .global n.toNat := by
  simp only [globalCell, u32, toNat_zext32]

@[simp] theorem elementCell_eq (n : Imm) (x : Word) : elementCell n x = .array n.toNat x.toNat := by
  simp only [elementCell, u32, toNat_zext32]

/-- A valid global index is below `GLOBAL_COUNT` (R63). -/
theorem globalOk_eq (s : State) (n : Imm) :
    globalOk s n = decide (n.toNat < s.cfg.globalCount) := by
  simp only [globalOk, globalCell_eq, cellExists]

/-- A valid element is a cell that exists (R63). -/
theorem elementOk_eq (s : State) (n : Imm) (x : Word) :
    elementOk s n x = cellExists s.cfg (.array n.toNat x.toNat) := by
  simp only [elementOk, elementCell_eq]

/-- An element of an array that exists is bounded by its capacity (R37). -/
theorem cellExists_array {c : Config} {id i cap : Nat} (h : c.arrayCaps[id]? = some cap) :
    cellExists c (.array id i) = decide (i < cap) := by
  simp only [cellExists, h]

/-- No element exists of an array number at or beyond `ARRAY_COUNT` (R37). -/
theorem cellExists_no_array {c : Config} {id i : Nat} (h : c.arrayCount ≤ id) :
    cellExists c (.array id i) = false := by
  simp only [cellExists, List.getElem?_eq_none (show c.arrayCaps.length ≤ id from h)]

theorem printfArgs_length (s : State) (n : Nat) : (printfArgs s n).length = n := by
  simp [printfArgs]

end Sys2Proof.Machine
end

