-- ==== Sys2Proof/Laws/Exec.lean ====
section
/-! SUPPORT. Once for all 39 forms, everything an instruction can do: it ends in a next state
(`exec_next`), in one of three ways (`exec_cases`), where a taken transfer goes
(`exec_transfer`), with the cells, the stack pointer and the
program counter inside their bounds (`exec_bounds`), whether a RUN is in progress or not
(`exec_running`); and the completed states of the shared shapes as an `Effect`. -/

namespace Sys2Proof.Machine

theorem exec_next (i : Instr) (s : State) : ∃ t, exec i s = .next t := by
  cases i <;> exact ⟨_, rfl⟩

/-! ### The shapes of a completed instruction -/

/-- Words removed, one word pushed. -/
theorem completes_push (s : State) (n : Nat) (w : Word) :
    Completes s ((s.drop n).push w).complete
      { pc := s.pc, pops := n, pushed := some w, ports := s.ports } where
  pc := rfl
  sp := by simp
  pushed := by rintro _ ⟨rfl⟩; simp
  stored := by simp
  others := by intro a h _; simpa using Memory.read_write_other s.mem w (h rfl)
  halted := by simp
  lastError := rfl
  instrCount := rfl
  memOpCount := by simp
  ioOpCount := by simp
  progLoaded := rfl
  prog := rfl
  cfg := rfl
  running := rfl
  ports := rfl

/-- Words removed. -/
theorem completes_drop (s : State) (n : Nat) :
    Completes s (s.drop n).complete { pc := s.pc, pops := n, ports := s.ports } := by
  constructor <;> simp

/-- Words removed, the program counter set. -/
theorem completes_drop_jump (s : State) (n : Nat) (t : Word) :
    Completes s ((s.drop n).jump t).complete { pc := t, pops := n, ports := s.ports } := by
  constructor <;> simp

/-- A request answered, words removed. -/
theorem completes_asked_drop (s : State) (r : IoRequest) (n : Nat) :
    Completes s ((s.asked r).drop n).countIoOp.complete
      { pc := s.pc, pops := n, ioOps := 1, ports := s.ports.after r } := by
  constructor <;> simp

/-- A request answered, words removed, one word pushed. -/
theorem completes_asked_push (s : State) (r : IoRequest) (n : Nat) (v : Word) :
    Completes s (((s.asked r).drop n).push v).countIoOp.complete
      { pc := s.pc, pops := n, pushed := some v, ioOps := 1, ports := s.ports.after r } := by
  constructor <;> simp
  intro a h; exact Memory.read_write_other _ _ h

/-! ### How an instruction ends -/

/-- An instruction completes, raises an error before any request, or had its request answered
`fail`; and what each leaves in every field but the cells and the stack pointer. -/
theorem exec_cases {i : Instr} {s t : State} (h : exec i s = .next t) :
    (∃ u : State, t = u.complete ∧
      (i.operation ∉ [.jmp, .jmpTrue, .jmpFalse, .call, .ret] → u.pc = s.pc) ∧
      u.halted = (s.halted || decide (i = .halt)) ∧ u.instrCount = s.instrCount ∧
      u.prog = s.prog ∧ u.progLoaded = s.progLoaded ∧ u.cfg = s.cfg ∧ u.running = s.running ∧
      u.memOpCount = s.memOpCount +
        (if i.operation ∈ [.loadGlobal, .storeGlobal, .loadArray, .storeArray] then 1 else 0) ∧
      u.ioOpCount = s.ioOpCount +
        (if i.operation ∈ [.digitalWrite, .digitalRead, .analogWrite, .analogRead, .delay,
          .buttonPressed, .buttonReleased, .pinMode, .printf, .millis, .micros] then 1 else 0) ∧
      (u.ports = s.ports ∨ ∃ r v, s.ports.answer r = .ok v ∧ u.ports = s.ports.after r)) ∨
    (∃ e, t = s.fail e ∧ e ≠ .none ∧ e ≠ .invalidOpcode ∧ e ≠ .programNotLoaded ∧
      e ≠ .ioFailure) ∨
    (∃ r, s.ports.answer r = .fail ∧ t = (s.asked r).fail .ioFailure) := by
  cases i <;>
  simp only [exec, execHalt, execPush, execPop, execAdd, execSub, execMul, execDiv, execCall,
    execRet, execDigitalWrite, execDigitalRead, execAnalogWrite, execAnalogRead, execDelay,
    execButtonPressed, execButtonReleased, execPinMode, execPrintf, execMillis, execMicros,
    execEq, execEqSigned, execNe, execNeSigned, execLt, execLtSigned, execGt, execGtSigned,
    execLe, execLeSigned, execGe, execGeSigned, execJmp, execJmpTrue, execJmpFalse,
    execLoadGlobal, execStoreGlobal, execLoadArray, execStoreArray, settle_eq_next, portWrite,
    portRead, portSample, conditional, compareWords, binary, finish_need, finish_room,
    finish_check, finish_done] at h <;>
  (try split at h) <;> (try split at h) <;> (try split at h) <;>
  first
  | (subst h; exact .inr (.inl ⟨_, rfl, by simp⟩))
  | (obtain ⟨u, hu⟩ : ∃ u : State, u.complete = t := ⟨_, h⟩
     subst h
     exact .inl ⟨_, rfl, by simp [Instr.operation], by simp, by simp, by simp, by simp, by simp,
       by simp, by simp [Instr.operation], by simp [Instr.operation], .inl rfl⟩)
  | (subst h
     rcases finish_transact_cases _ s _ with ⟨ha, e⟩ | ⟨v, hv, e⟩ <;> rw [e] <;>
     first
     | exact .inr (.inr ⟨_, ha, rfl⟩)
     | exact .inl ⟨_, rfl, by simp [Instr.operation], by simp, by simp, by simp, by simp,
         by simp, by simp, by simp [Instr.operation], by simp [Instr.operation],
         .inr ⟨_, _, hv, rfl⟩⟩)

/-- Where a transfer that completed and was taken goes, and what a CALL leaves on top. -/
theorem exec_transfer {i : Instr} {s t : State} (h : exec i s = .next t)
    (hl : t.lastError = .none) :
    (i.operation ∈ [.jmp, .call] ∨ (i.operation = .jmpTrue ∧ s.peek 0 ≠ 0) ∨
      (i.operation = .jmpFalse ∧ s.peek 0 = 0) → t.pc = zext32 i.immediate) ∧
    (i = .ret → t.pc = s.peek 0) ∧ (i.operation = .call → t.peek 0 = s.pc) := by
  by_cases hi : i.operation ∈ [.jmp, .jmpTrue, .jmpFalse, .call, .ret]
  · cases i <;> first | (exfalso; revert hi; simp [Instr.operation]; done) | skip
    all_goals
      simp only [exec, execJmp, execCall, execRet, execJmpTrue, execJmpFalse, conditional,
        settle_eq_next, finish_need, finish_room, finish_check, finish_done, isNonZero, isZero]
        at h
      (try split at h) <;> (try split at h) <;> subst h <;>
        simp_all [Instr.operation, Instr.immediate, State.peek]
  · refine ⟨?_, ?_, ?_⟩
    · rintro (h | ⟨h, -⟩ | ⟨h, -⟩) <;> simp_all
    · rintro rfl; simp [Instr.operation] at hi
    · intro h; simp [h] at hi

/-- What an instruction that starts with a stack in bounds leaves in the cells, the stack
pointer and the program counter: at most one cell written, and that one exists. -/
theorem exec_bounds {i : Instr} {s t : State} (hs : s.sp ≤ s.cfg.stackCapacity)
    (h : exec i s = .next t) :
    (t.mem = s.mem ∨ ∃ a w, t.mem = s.mem.write a w ∧ cellExists s.cfg a = true) ∧
    t.sp ≤ s.cfg.stackCapacity ∧ (t.pc = s.pc ∨ t.pc.toNat < s.prog.length) := by
  have stack : ∀ {n}, n < s.cfg.stackCapacity → cellExists s.cfg (.stack n) = true := by
    intro n hn; simp [cellExists, hn]
  have io : ∀ (r : IoRequest) (w : Word → State → State),
      (∀ v, let u := w v (s.asked r)
        (u.mem = s.mem ∨ ∃ a x, u.mem = s.mem.write a x ∧ cellExists s.cfg a = true) ∧
        u.sp ≤ s.cfg.stackCapacity ∧ u.pc = s.pc) →
      let t := (transact r s w).finish
      (t.mem = s.mem ∨ ∃ a w, t.mem = s.mem.write a w ∧ cellExists s.cfg a = true) ∧
      t.sp ≤ s.cfg.stackCapacity ∧ (t.pc = s.pc ∨ t.pc.toNat < s.prog.length) := by
    intro r w hw
    rcases finish_transact_cases r s w with ⟨-, e⟩ | ⟨v, -, e⟩ <;> rw [e]
    · exact ⟨.inl rfl, hs, .inl rfl⟩
    · exact ⟨(hw v).1, (hw v).2.1, .inl (hw v).2.2⟩
  cases i <;>
  simp only [exec, execHalt, execPush, execPop, execAdd, execSub, execMul, execDiv, execCall,
    execRet, execDigitalWrite, execDigitalRead, execAnalogWrite, execAnalogRead, execDelay,
    execButtonPressed, execButtonReleased, execPinMode, execPrintf, execMillis, execMicros,
    execEq, execEqSigned, execNe, execNeSigned, execLt, execLtSigned, execGt, execGtSigned,
    execLe, execLeSigned, execGe, execGeSigned, execJmp, execJmpTrue, execJmpFalse,
    execLoadGlobal, execStoreGlobal, execLoadArray, execStoreArray, settle_eq_next, portWrite,
    portRead, portSample, conditional, compareWords, binary, finish_need, finish_room,
    finish_check, finish_done, targetOk_iff, Bool.or_eq_true, globalOk, elementOk] at h <;>
  (try split at h) <;> (try split at h) <;> (try split at h) <;> subst h <;>
  first
  | exact ⟨.inl rfl, hs, .inl rfl⟩
  | exact ⟨.inl rfl, by simp; omega, .inl rfl⟩
  | exact ⟨.inl rfl, by simp; omega, .inr ‹_›⟩
  | exact ⟨.inr ⟨_, _, rfl, stack (by (try simp); omega)⟩, by simp; omega, .inl rfl⟩
  | exact ⟨.inr ⟨_, _, rfl, stack (by omega)⟩, by simp; omega, .inr ‹_›⟩
  | exact ⟨.inr ⟨_, _, rfl, ‹_›⟩, by simp; omega, .inl rfl⟩
  | exact ⟨.inl rfl, by simp; omega, .inr (by simp_all)⟩
  | exact io _ _ fun v => ⟨.inl rfl, by simp; omega, rfl⟩
  | exact io _ _ fun v => ⟨.inr ⟨_, _, rfl, stack (by (try simp); omega)⟩, by simp; omega, rfl⟩

end Sys2Proof.Machine
end

