-- ==== Sys2Proof/Laws/HostCommands.lean ====
section
/-! SUPPORT. What the host commands come down to on a block that is on with no RUN in progress,
and what a rejection and a write keep of the invariant. -/

namespace Sys2Proof.Machine

theorem hostCommand_on {c : Command} {s : State} (h : s.running = false) :
    hostCommand c (.on s) = commandOn c s := by
  simp only [hostCommand, h, Bool.false_eq_true, if_false]

theorem hostLoad_accepted {s : State} {ws : List Word} (h1 : 1 ≤ ws.length)
    (h2 : ws.length ≤ s.cfg.progMax) : hostLoad (some ws) s = (s.install ws, .success) := by
  have : ¬ (ws.length = 0 ∨ s.cfg.progMax < ws.length) := by omega
  simp only [hostLoad, accepts, this, if_false]

theorem hostLoad_absent (s : State) : hostLoad none s = (s.rejectCommand, .failure) := rfl

theorem hostLoad_rejected {s : State} {ws : List Word}
    (h : ws.length = 0 ∨ s.cfg.progMax < ws.length) :
    hostLoad (some ws) s = (s.rejectCommand, .failure) := by
  simp only [hostLoad, accepts, h, if_true]

/-- A rejected command keeps the invariant. -/
theorem inv_rejectCommand {s : State} (h : s.Inv) : s.rejectCommand.Inv :=
  { h with ready := fun _ => .inr rfl }

/-- A write to a cell that exists lists no cell that does not. -/
theorem cells_write {c : Config} {m : Memory} {a : Addr} (w : Word) (ha : cellExists c a = true)
    (hm : ∀ x ∈ m, cellExists c x.1 = true) : ∀ x ∈ m.write a w, cellExists c x.1 = true := by
  intro x hx
  rcases Memory.mem_write hx with rfl | h
  · exact ha
  · exact hm x h

end Sys2Proof.Machine
end

