-- ==== Sys2Proof/Laws/PerInstr.lean ====
section
/-! SUPPORT. The family `Form`: an instruction is determined by its operation, its signedness
and its immediate, which are the three things its word carries (R80, R90). -/

namespace Sys2Proof.Laws.Form

/-- The form that R90 builds from an instruction's operation, signedness and immediate is the
instruction, and its operation is one of the 33. -/
def Statement (i : Instr) : Prop :=
  formOf i.operation i.isSigned i.immediate = i ∧ i.operation ∈ Operation.all

theorem halt : Statement .halt := by unfold Statement; decide
theorem push (n : Imm) : Statement (.push n) := ⟨rfl, by simp [Instr.operation, Operation.all]⟩
theorem pop : Statement .pop := by unfold Statement; decide
theorem add : Statement .add := by unfold Statement; decide
theorem sub : Statement .sub := by unfold Statement; decide
theorem mul : Statement .mul := by unfold Statement; decide
theorem div : Statement .div := by unfold Statement; decide
theorem call (n : Imm) : Statement (.call n) := ⟨rfl, by simp [Instr.operation, Operation.all]⟩
theorem ret : Statement .ret := by unfold Statement; decide
theorem digitalWrite : Statement .digitalWrite := by unfold Statement; decide
theorem digitalRead : Statement .digitalRead := by unfold Statement; decide
theorem analogWrite : Statement .analogWrite := by unfold Statement; decide
theorem analogRead : Statement .analogRead := by unfold Statement; decide
theorem delay : Statement .delay := by unfold Statement; decide
theorem buttonPressed : Statement .buttonPressed := by unfold Statement; decide
theorem buttonReleased : Statement .buttonReleased := by unfold Statement; decide
theorem pinMode : Statement .pinMode := by unfold Statement; decide
theorem printf (n : Imm) : Statement (.printf n) := ⟨rfl, by simp [Instr.operation, Operation.all]⟩
theorem millis : Statement .millis := by unfold Statement; decide
theorem micros : Statement .micros := by unfold Statement; decide
theorem eq : Statement .eq := by unfold Statement; decide
theorem eqSigned : Statement .eqSigned := by unfold Statement; decide
theorem ne : Statement .ne := by unfold Statement; decide
theorem neSigned : Statement .neSigned := by unfold Statement; decide
theorem lt : Statement .lt := by unfold Statement; decide
theorem ltSigned : Statement .ltSigned := by unfold Statement; decide
theorem gt : Statement .gt := by unfold Statement; decide
theorem gtSigned : Statement .gtSigned := by unfold Statement; decide
theorem le : Statement .le := by unfold Statement; decide
theorem leSigned : Statement .leSigned := by unfold Statement; decide
theorem ge : Statement .ge := by unfold Statement; decide
theorem geSigned : Statement .geSigned := by unfold Statement; decide
theorem jmp (n : Imm) : Statement (.jmp n) := ⟨rfl, by simp [Instr.operation, Operation.all]⟩
theorem jmpTrue (n : Imm) : Statement (.jmpTrue n) := ⟨rfl, by simp [Instr.operation, Operation.all]⟩
theorem jmpFalse (n : Imm) : Statement (.jmpFalse n) := ⟨rfl, by simp [Instr.operation, Operation.all]⟩
theorem loadGlobal (n : Imm) : Statement (.loadGlobal n) := ⟨rfl, by simp [Instr.operation, Operation.all]⟩
theorem storeGlobal (n : Imm) : Statement (.storeGlobal n) := ⟨rfl, by simp [Instr.operation, Operation.all]⟩
theorem loadArray (n : Imm) : Statement (.loadArray n) := ⟨rfl, by simp [Instr.operation, Operation.all]⟩
theorem storeArray (n : Imm) : Statement (.storeArray n) := ⟨rfl, by simp [Instr.operation, Operation.all]⟩

end Sys2Proof.Laws.Form
end

