-- ==== Sys2Proof/Laws/Step.lean ====
section
/-! SUPPORT. What one move of the engine is in each run state, what a cycle leaves whatever it
fetches, and that whether a RUN is in progress changes nothing but the end of the move. -/

namespace Sys2Proof.Machine

@[simp] theorem onNext_next (f : State → State) (s : State) : onNext f (.next s) = .next (f s) := rfl

theorem onNext_onNext (f g : State → State) (o : Host.Outcome State Fault Refusal) :
    onNext f (onNext g o) = onNext (f ∘ g) o := by cases o <;> rfl

/-! ### The move in each run state (R42) -/

theorem step_empty {s : State} (h : s.progLoaded = false) : step s = .next s.rejectCommand := by
  simp only [step, engineMove, h, Bool.false_eq_true, if_false]

theorem step_halted {s : State} (hl : s.progLoaded = true) (hh : s.halted = true) :
    step s = .next s := by
  simp only [step, engineMove, hl, hh, if_true]

theorem step_ready {s : State} (hl : s.progLoaded = true) (hh : s.halted = false) :
    step s = onNext State.afterCycle (cycle s) := by
  simp only [step, engineMove, hl, hh, if_true, Bool.false_eq_true, if_false]

/-! ### The cycle -/

theorem fetch_none {s : State} (h : s.prog.length ≤ s.pc.toNat) : s.fetch = none :=
  List.getElem?_eq_none h

theorem cycle_fetch_none {s : State} (h : s.fetch = none) : cycle s = .next s.failNoInstr := by
  simp only [cycle, h]

theorem cycle_fetch {s : State} {w : Word} (h : s.fetch = some w) :
    cycle s = onNext (State.emit (instructionEvent s.pc w)) (dispatch w s.advance) := by
  simp only [cycle, h]

theorem dispatch_ok {w : Word} {s : State} {i : Instr} (h : decode s.cfg w = .ok i) :
    dispatch w s = exec i s := by simp only [dispatch, h]

theorem dispatch_error {w : Word} {s : State} {r : Reject} (h : decode s.cfg w = .error r) :
    dispatch w s = .next (s.fail .invalidOpcode) := by
  simp only [dispatch, h, settle, finish_raised]

/-- A dispatch is an instruction, or the failure of a word that is none. -/
theorem dispatch_cases {w : Word} {s t : State} (h : dispatch w s = .next t) :
    (∃ i, decode s.cfg w = .ok i ∧ exec i s = .next t) ∨ t = s.fail .invalidOpcode := by
  cases hd : decode s.cfg w with
  | ok i => exact .inl ⟨i, rfl, (dispatch_ok hd).symm.trans h⟩
  | error r => rw [dispatch_error hd] at h; cases h; exact .inr rfl

theorem dispatch_next (w : Word) (s : State) : ∃ t, dispatch w s = .next t := by
  cases hd : decode s.cfg w with
  | ok i => rw [dispatch_ok hd]; exact exec_next i s
  | error r => exact ⟨_, dispatch_error hd⟩

/-- A cycle fails to fetch, or dispatches the word at `pc` and emits its event. -/
theorem cycle_cases {s t : State} (h : cycle s = .next t) :
    (s.fetch = none ∧ t = s.fail .invalidJump) ∨
    ∃ w v, s.fetch = some w ∧ dispatch w s.advance = .next v ∧
      t = v.emit (instructionEvent s.pc w) := by
  cases hf : s.fetch with
  | none => rw [cycle_fetch_none hf] at h; cases h; exact .inl ⟨rfl, rfl⟩
  | some w =>
    obtain ⟨v, hv⟩ := dispatch_next w s.advance
    rw [cycle_fetch hf, hv] at h; cases h
    exact .inr ⟨w, v, rfl, hv, rfl⟩

theorem cycle_next (s : State) : ∃ t, cycle s = .next t := by
  cases hf : s.fetch with
  | none => exact ⟨_, cycle_fetch_none hf⟩
  | some w =>
    obtain ⟨v, hv⟩ := dispatch_next w s.advance
    exact ⟨_, by rw [cycle_fetch hf, hv]; rfl⟩

/-- Everything one move of the engine can be. -/
theorem step_cases {s t : State} (h : step s = .next t) :
    (s.progLoaded = false ∧ t = s.rejectCommand) ∨
    (s.progLoaded = true ∧ s.halted = true ∧ t = s) ∨
    ∃ u, s.progLoaded = true ∧ s.halted = false ∧ cycle s = .next u ∧ t = u.afterCycle := by
  cases hl : s.progLoaded with
  | false => rw [step_empty hl] at h; cases h; exact .inl ⟨rfl, rfl⟩
  | true =>
    cases hh : s.halted with
    | true => rw [step_halted hl hh] at h; cases h; exact .inr (.inl ⟨rfl, rfl, rfl⟩)
    | false =>
      obtain ⟨u, hu⟩ := cycle_next s
      rw [step_ready hl hh, hu] at h; cases h
      exact .inr (.inr ⟨u, rfl, rfl, hu, rfl⟩)

/-! ### The end of a move -/

theorem afterCycle_idle {s : State} (h : s.running = false) : s.afterCycle = s := by
  simp only [State.afterCycle, h, Bool.false_and, Bool.false_eq_true, if_false]

theorem afterCycle_halted {s : State} (hr : s.running = true) (hh : s.halted = true) :
    s.afterCycle = s.endRun := by
  simp only [State.afterCycle, hr, hh, Bool.and_true, if_true]

theorem afterCycle_going {s : State} (h : s.halted = false) : s.afterCycle = s := by
  simp only [State.afterCycle, h, Bool.and_false, Bool.false_eq_true, if_false]

/-! ### `running` is read by nothing but the end of a move -/

/-- The same ending with `running` set. -/
def Result.setRunning (r : Bool) : Result → Result
  | .done s => .done { s with running := r }
  | .raised e s => .raised e { s with running := r }

theorem settle_running {r : Bool} {k k' : Result} (h : k' = k.setRunning r) :
    settle k' = onNext (fun t => { t with running := r }) (settle k) := by
  subst h; cases k <;> rfl

theorem need_running {n : Nat} {s : State} {k k' : Result} {r : Bool}
    (h : k' = k.setRunning r) :
    need n { s with running := r } k' = (need n s k).setRunning r := by
  subst h; unfold need; split <;> rfl

theorem room_running {n : Nat} {s : State} {k k' : Result} {r : Bool}
    (h : k' = k.setRunning r) :
    room n { s with running := r } k' = (room n s k).setRunning r := by
  subst h; unfold room; split <;> rfl

theorem check_running {b : Bool} {e : ErrorCode} {s : State} {k k' : Result} {r : Bool}
    (h : k' = k.setRunning r) :
    check b e { s with running := r } k' = (check b e s k).setRunning r := by
  subst h; cases b <;> rfl

theorem transact_running {q : IoRequest} {s : State} {r : Bool} {w : Word → State → State}
    (h : ∀ v u, w v { u with running := r } = { w v u with running := r }) :
    transact q { s with running := r } w = (transact q s w).setRunning r := by
  unfold transact
  cases s.ports.answer q with
  | fail => rfl
  | ok v =>
    show Result.done (State.countIoOp (w v { (s.asked q) with running := r })) = _
    rw [h]; rfl

theorem conditional_running {p : Word → Bool} {n : Word} {s : State} {r : Bool} :
    conditional p n { s with running := r } = (conditional p n s).setRunning r := by
  unfold conditional
  refine need_running (check_running ?_)
  have : State.peek { s with running := r } 0 = s.peek 0 := rfl
  rw [this]
  cases p (s.peek 0) <;> rfl

/-- An instruction does the same whether a RUN is in progress or not. -/
theorem exec_running (i : Instr) (s : State) (r : Bool) :
    exec i { s with running := r } = onNext (fun t => { t with running := r }) (exec i s) := by
  cases i <;> apply settle_running <;>
  first
  | exact conditional_running
  | rfl
  | exact need_running rfl
  | exact room_running rfl
  | exact check_running rfl
  | exact need_running (check_running rfl)
  | exact need_running (check_running (need_running rfl))
  | exact room_running (check_running rfl)
  | exact check_running (room_running rfl)
  | exact need_running (transact_running (fun _ _ => rfl))
  | exact room_running (transact_running (fun _ _ => rfl))
  | exact need_running (need_running (transact_running (fun _ _ => rfl)))

/-- A cycle does the same whether a RUN is in progress or not. -/
theorem cycle_running (s : State) (r : Bool) :
    cycle { s with running := r } = onNext (fun t => { t with running := r }) (cycle s) := by
  have hfetch : State.fetch { s with running := r } = s.fetch := rfl
  cases hf : s.fetch with
  | none => rw [cycle_fetch_none hf, cycle_fetch_none (hfetch.trans hf)]; rfl
  | some w =>
    rw [cycle_fetch hf, cycle_fetch (hfetch.trans hf)]
    have hadv : ({ s with running := r } : State).advance = { s.advance with running := r } := rfl
    cases hd : decode s.advance.cfg w with
    | error e =>
      rw [dispatch_error hd, dispatch_error (s := ({ s with running := r } : State).advance) hd]; rfl
    | ok i =>
      rw [dispatch_ok hd, dispatch_ok (s := ({ s with running := r } : State).advance) hd, hadv,
        exec_running, onNext_onNext, onNext_onNext]
      rfl

/-! ### What a dispatch and a cycle leave -/

/-- No dispatch changes the program, its flag, the parameters or `running`. -/
theorem dispatch_frame {w : Word} {s t : State} (h : dispatch w s = .next t) :
    t.prog = s.prog ∧ t.progLoaded = s.progLoaded ∧ t.cfg = s.cfg ∧ t.running = s.running := by
  rcases dispatch_cases h with ⟨i, -, hv⟩ | rfl
  · rcases exec_cases hv with ⟨u, rfl, -, -, -, h1, h2, h3, h4, -⟩ | ⟨e, rfl, -⟩ | ⟨r, -, rfl⟩
    · exact ⟨h1, h2, h3, h4⟩
    · simp
    · simp
  · simp

/-- The bounds of `exec_bounds`, for any word. -/
theorem dispatch_bounds {w : Word} {s t : State} (hs : s.sp ≤ s.cfg.stackCapacity)
    (h : dispatch w s = .next t) :
    (t.mem = s.mem ∨ ∃ a x, t.mem = s.mem.write a x ∧ cellExists s.cfg a = true) ∧
    t.sp ≤ s.cfg.stackCapacity ∧ (t.pc = s.pc ∨ t.pc.toNat < s.prog.length) := by
  rcases dispatch_cases h with ⟨i, -, hv⟩ | rfl
  · exact exec_bounds hs hv
  · exact ⟨.inl rfl, hs, .inl rfl⟩

/-- A dispatch that leaves the machine running has cleared the error. -/
theorem dispatch_error_none {w : Word} {s t : State} (h : dispatch w s = .next t)
    (hh : t.halted = false) : t.lastError = .none := by
  rcases dispatch_cases h with ⟨i, -, hv⟩ | rfl
  · rcases exec_cases hv with ⟨u, rfl, -⟩ | ⟨e, rfl, -⟩ | ⟨r, -, rfl⟩
    · rfl
    · cases hh
    · cases hh
  · cases hh

/-- No cycle changes the program, its flag, the parameters or `running`. -/
theorem cycle_frame {s t : State} (h : cycle s = .next t) :
    t.prog = s.prog ∧ t.progLoaded = s.progLoaded ∧ t.cfg = s.cfg ∧ t.running = s.running := by
  rcases cycle_cases h with ⟨-, rfl⟩ | ⟨w, u, -, hu, rfl⟩
  · simp
  · simpa using dispatch_frame hu

end Sys2Proof.Machine
end

