-- ==== Sys2Proof/Tests/Slice0.lean ====
section
/-! SUPPORT. The model's own tests: one ill-formed term for each check, the decoding of a word
for every constructor, one step for the vectors of 95_test_vectors.md (named in each comment),
and a witness for the hypotheses of every statement. -/

namespace Sys2Proof.Tests

open Sys2Proof.Machine

/-! ### WellFormed -/

theorem test_default_parameters_are_well_formed : Config.cvm32.WellFormed := by
  constructor <;> decide

theorem test_no_stack_is_refused : ¬ Config.StackOk { Config.cvm32 with stackCapacity := 0 } := by
  decide

theorem test_stack_too_large_is_refused :
    ¬ Config.StackOk { Config.cvm32 with stackCapacity := 2147483648 } := by decide

theorem test_257_globals_are_refused :
    ¬ Config.GlobalsOk { Config.cvm32 with globalCount := 257 } := by decide

theorem test_65537_arrays_are_refused :
    ¬ Config.ArrayCountOk { Config.cvm32 with arrayCaps := List.replicate 65537 1 } := by
  show ¬ (List.replicate 65537 1).length ≤ 65536
  rw [List.length_replicate]
  decide

theorem test_empty_array_is_refused :
    ¬ Config.ArrayCapsOk { Config.cvm32 with arrayCaps := [64, 0] } := by decide

theorem test_no_program_space_is_refused :
    ¬ Config.ProgMaxOk { Config.cvm32 with progMax := 0 } := by decide

theorem test_printf_wider_than_stack_is_refused :
    ¬ Config.PrintfOk { Config.cvm32 with printfMaxArgs := 4096 } := by decide

theorem test_one_opcode_for_two_operations_is_refused :
    ¬ Config.OpcodesDistinct { Config.cvm32 with opcodeMap := [(0x00, .halt), (0x00, .pop)] } := by
  decide

theorem test_two_opcodes_for_one_operation_are_refused :
    ¬ Config.OperationsDistinct { Config.cvm32 with opcodeMap := [(0x00, .halt), (0x01, .halt)] } := by
  decide

theorem test_missing_operation_is_refused :
    ¬ Config.OpcodesComplete { Config.cvm32 with opcodeMap := [(0x00, .halt)] } := by decide

theorem test_instruction_without_opcode_is_refused :
    ¬ Instr.WellFormed { Config.cvm32 with opcodeMap := [(0x00, .halt)] } (.push 1) := by decide

/-! ### Decoding: a word for every constructor, written out from R80, R83 and R86 -/

theorem test_decode_stack_and_halt :
    [0b00000000_00000000_0000000000000000#32, 0b00000001_00000000_0000000000101010#32,
      0b00000010_00000000_0000000000000000#32].map (decode Config.cvm32) =
    [.ok .halt, .ok (.push 42), .ok .pop] := by decide

theorem test_decode_arithmetic :
    [0b00000011_00000000_0000000000000000#32, 0x04000000#32, 0x05000000#32, 0x06000000#32].map
      (decode Config.cvm32) = [.ok .add, .ok .sub, .ok .mul, .ok .div] := by decide

theorem test_decode_io :
    [0b00010000_00000000_0000000000000000#32, 0x11000000#32, 0x12000000#32, 0x13000000#32,
      0x14000000#32, 0x15000000#32, 0x16000000#32, 0x17000000#32, 0x18000003#32, 0x19000000#32,
      0x1A000000#32].map (decode Config.cvm32) =
    [.ok .digitalWrite, .ok .digitalRead, .ok .analogWrite, .ok .analogRead, .ok .delay,
      .ok .buttonPressed, .ok .buttonReleased, .ok .pinMode, .ok (.printf 3), .ok .millis,
      .ok .micros] := by decide

theorem test_decode_unsigned_comparisons :
    [0b00100000_00000000_0000000000000000#32, 0x21000000#32, 0x22000000#32, 0x23000000#32,
      0x24000000#32, 0x25000000#32].map (decode Config.cvm32) =
    [.ok .eq, .ok .ne, .ok .lt, .ok .gt, .ok .le, .ok .ge] := by decide

theorem test_decode_signed_comparisons :
    [0b00100000_00000001_0000000000000000#32, 0x21010000#32, 0x22010000#32, 0x23010000#32,
      0x24010000#32, 0x25010000#32].map (decode Config.cvm32) =
    [.ok .eqSigned, .ok .neSigned, .ok .ltSigned, .ok .gtSigned, .ok .leSigned,
      .ok .geSigned] := by decide

theorem test_decode_control_flow :
    [0b00110000_00000000_0000000000000111#32, 0x31000005#32, 0x32000011#32, 0x08000005#32,
      0x09000000#32].map (decode Config.cvm32) =
    [.ok (.jmp 7), .ok (.jmpTrue 5), .ok (.jmpFalse 17), .ok (.call 5), .ok .ret] := by decide

theorem test_decode_memory :
    [0b01010000_00000000_0000000000111111#32, 0x51000000#32, 0x54000002#32, 0x5500000F#32].map
      (decode Config.cvm32) =
    [.ok (.loadGlobal 63), .ok (.storeGlobal 0), .ok (.loadArray 2), .ok (.storeArray 15)] := by
  decide

/-- Section 2.8: reserved flag bits and an unused immediate are ignored. -/
theorem test_decode_ignores_unread_bits :
    [0x22FE1234#32, 0x03010000#32, 0x22FF0000#32, 0x00FFABCD#32].map (decode Config.cvm32) =
    [.ok .lt, .ok .add, .ok .ltSigned, .ok .halt] := by decide

/-- V130 to V135 and section 2.8. -/
theorem test_decode_rejects_by_name :
    [0x07000000#32, 0x0A000000#32, 0x1B00002A#32, 0x26000000#32, 0x52000000#32, 0x53000000#32,
      0xFF000000#32].map (decode Config.cvm32) =
    [.error (.invalidOpcode 0x07), .error (.invalidOpcode 0x0A), .error (.invalidOpcode 0x1B),
      .error (.invalidOpcode 0x26), .error (.invalidOpcode 0x52), .error (.invalidOpcode 0x53),
      .error (.invalidOpcode 0xFF)] := by decide

/-- Section 2.8, the last column. -/
theorem test_canonical_words :
    [0x0100002A#32, 0x22010000#32, 0x22FE1234#32, 0x32000011#32, 0x5500000F#32, 0x03010000#32].map
      (isCanonical Config.cvm32) = [true, true, false, true, true, false] := by decide

/-- S8: the packed bytes of a word, in both byte orders. -/
theorem test_packed_bytes :
    packBytes .big 0x22FE1234 = [0x22, 0xFE, 0x12, 0x34] ∧
    packBytes .little 0x22FE1234 = [0x34, 0x12, 0xFE, 0x22] := by decide

theorem test_three_bytes_are_no_word :
    unpackBytes .big [0x22, 0xFE, 0x12] = .error .truncatedImage := by decide

/-- R92, the source's own listing. -/
theorem test_assembly_of_the_source_example :
    assembly [.push 42, .push 24, .add, .halt] = "PUSH 42; PUSH 24; ADD; HALT" := by decide

theorem test_assemble_reads_mnemonics :
    assemble "LT_SIGNED" none = some .ltSigned ∧ assemble "CALL" (some 2) = some (.call 2) ∧
    assemble "ADD" (some 1) = none ∧ assemble "PUSH" none = none := by decide

/-! ### One step: the vectors of section 2 -/

/-- Stack cells from index `k` on; a zero word is not listed. -/
def stackCells (k : Nat) : List Word → Memory
  | [] => []
  | w :: ws => if w = 0 then stackCells (k + 1) ws else (.stack k, w) :: stackCells (k + 1) ws

/-- The setting of section 2: eight instructions with `w` at index `i`, run state Ready, the
stack given bottom first, other cells, and the answers the port will give. -/
def ready (w : Word) (stack : List Word) (i : Nat := 0) (data : Memory := [])
    (answers : List IoAnswer := []) (capacity : Nat := 4096) : State :=
  let start := State.powerOn { Config.cvm32 with stackCapacity := capacity }
    { answers, draws := 0, trace := [] }
  { start with
    prog := (List.replicate 8 (0 : Word)).set i w, progLoaded := true
    pc := BitVec.ofNat 32 i, sp := stack.length, mem := stackCells 0 stack ++ data }

/-- The live words of the stack, bottom first. -/
def live (s : State) : List Word := (List.range s.sp).map fun k => s.mem.read (.stack k)

/-- The columns of section 2: stack, `pc`, `last_error`, `halted`, and the three counters. -/
structure Columns where
  stack : List Word
  pc : Nat
  lastError : ErrorCode
  halted : Bool
  instr : Nat
  mem : Nat
  io : Nat
  deriving DecidableEq, Repr

def columns (s : State) : Columns :=
  ⟨live s, s.pc.toNat, s.lastError, s.halted,
    s.instrCount.toNat, s.memOpCount.toNat, s.ioOpCount.toNat⟩

/-- What a step leaves, read by `f`. -/
def after {α : Type} (s : State) (f : State → α) : Option α :=
  match step s with
  | .next t => some (f t)
  | .fault _ => none
  | .refused _ => none

/-- V1. -/
theorem test_halt_keeps_the_stack :
    after (ready 0x00000000 [5]) columns = some ⟨[5], 1, .none, true, 1, 0, 0⟩ := by decide

/-- V2: the event carries the immediate. -/
theorem test_halt_event_carries_the_immediate :
    after (ready 0x00FFABCD [5]) (fun t => t.ports.trace) =
      some [.instruction 0 0x00 0xABCD] := by decide

/-- V4. -/
theorem test_push_zero_extends :
    after (ready 0x0100FFFF []) columns = some ⟨[65535], 1, .none, false, 1, 0, 0⟩ := by decide

/-- V6. -/
theorem test_push_on_a_full_stack :
    after (ready 0x01000001 [9, 9] (capacity := 2)) columns =
      some ⟨[9, 9], 1, .stackOverflow, true, 0, 0, 0⟩ := by decide

/-- V7. -/
theorem test_pop : after (ready 0x02000000 [3, 4]) columns = some ⟨[3], 1, .none, false, 1, 0, 0⟩ := by
  decide

/-- V8. -/
theorem test_pop_on_the_empty_stack :
    after (ready 0x02000000 []) columns = some ⟨[], 1, .stackUnderflow, true, 0, 0, 0⟩ := by decide

/-- V11. -/
theorem test_add_wraps :
    after (ready 0x03000000 [0x7FFFFFFF, 1]) columns =
      some ⟨[0x80000000], 1, .none, false, 1, 0, 0⟩ := by decide

/-- V13. -/
theorem test_add_with_one_operand :
    after (ready 0x03000000 [7]) columns = some ⟨[7], 1, .stackUnderflow, true, 0, 0, 0⟩ := by decide

/-- V15. -/
theorem test_sub_takes_the_top_from_the_deeper_word :
    after (ready 0x04000000 [3, 10]) columns = some ⟨[0xFFFFFFF9], 1, .none, false, 1, 0, 0⟩ := by
  decide

/-- V16. -/
theorem test_sub_wraps :
    after (ready 0x04000000 [0x80000000, 1]) columns =
      some ⟨[0x7FFFFFFF], 1, .none, false, 1, 0, 0⟩ := by decide

/-- V18. -/
theorem test_mul_wraps_to_zero :
    after (ready 0x05000000 [0x00010000, 0x00010000]) columns =
      some ⟨[0], 1, .none, false, 1, 0, 0⟩ := by decide

/-- V20. -/
theorem test_mul_of_the_most_negative_word :
    after (ready 0x05000000 [0x80000000, 0xFFFFFFFF]) columns =
      some ⟨[0x80000000], 1, .none, false, 1, 0, 0⟩ := by decide

/-- V22. -/
theorem test_div_truncates_toward_zero :
    after (ready 0x06000000 [0xFFFFFFF9, 2]) columns =
      some ⟨[0xFFFFFFFD], 1, .none, false, 1, 0, 0⟩ := by decide

/-- V25. -/
theorem test_div_by_zero_keeps_both_operands :
    after (ready 0x06000000 [5, 0]) columns = some ⟨[5, 0], 1, .divisionByZero, true, 0, 0, 0⟩ := by
  decide

/-- V34. -/
theorem test_eq : after (ready 0x20000000 [5, 5]) live = some [1] := by decide

/-- V35. -/
theorem test_ne : after (ready 0x21000000 [5, 5]) live = some [0] := by decide

/-- V30. -/
theorem test_lt_is_unsigned : after (ready 0x22000000 [0xFFFFFFFF, 1]) live = some [0] := by decide

/-- V39. -/
theorem test_lt_compares_the_deeper_word : after (ready 0x22000000 [1, 2]) live = some [1] := by decide

/-- V32. -/
theorem test_gt_is_unsigned : after (ready 0x23000000 [0xFFFFFFFF, 1]) live = some [1] := by decide

/-- V36. -/
theorem test_le_of_equal_words : after (ready 0x24000000 [5, 5]) live = some [1] := by decide

/-- R133, the first column. -/
theorem test_le_is_unsigned : after (ready 0x24000000 [0xFFFFFFFF, 1]) live = some [0] := by decide

/-- V38. -/
theorem test_ge_is_unsigned :
    after (ready 0x25000000 [0x80000000, 0x7FFFFFFF]) live = some [1] := by decide

/-- R133, the third column. -/
theorem test_eq_signed : after (ready 0x20010000 [0xFFFFFFFF, 0xFFFFFFFF]) live = some [1] := by
  decide

/-- R133, the first column. -/
theorem test_ne_signed : after (ready 0x21010000 [0xFFFFFFFF, 1]) live = some [1] := by decide

/-- V31. -/
theorem test_lt_signed : after (ready 0x22010000 [0xFFFFFFFF, 1]) live = some [1] := by decide

/-- V33. -/
theorem test_gt_signed : after (ready 0x23010000 [0xFFFFFFFF, 1]) live = some [0] := by decide

/-- R133, the first column. -/
theorem test_le_signed : after (ready 0x24010000 [0xFFFFFFFF, 1]) live = some [1] := by decide

/-- V37. -/
theorem test_ge_signed :
    after (ready 0x25010000 [0x80000000, 0x7FFFFFFF]) live = some [0] := by decide

/-- V51. -/
theorem test_jmp_to_the_last_index :
    after (ready 0x30000007 [] 2) columns = some ⟨[], 7, .none, false, 1, 0, 0⟩ := by decide

/-- V52. -/
theorem test_jmp_to_prog_len :
    after (ready 0x30000008 [] 2) columns = some ⟨[], 3, .invalidJump, true, 0, 0, 0⟩ := by decide

/-- V56. -/
theorem test_jmp_true_on_any_non_zero_word :
    after (ready 0x31000005 [0x80000000] 2) columns = some ⟨[], 5, .none, false, 1, 0, 0⟩ := by decide

/-- V57. -/
theorem test_jmp_true_not_taken_examines_no_target :
    after (ready 0x310003E7 [0] 2) columns = some ⟨[], 3, .none, false, 1, 0, 0⟩ := by decide

/-- V59. -/
theorem test_jmp_false_taken :
    after (ready 0x32000005 [0] 2) columns = some ⟨[], 5, .none, false, 1, 0, 0⟩ := by decide

/-- V60. -/
theorem test_jmp_false_not_taken :
    after (ready 0x32000005 [2] 2) columns = some ⟨[], 3, .none, false, 1, 0, 0⟩ := by decide

/-- V62. -/
theorem test_call_pushes_the_successor :
    after (ready 0x08000005 [9] 2) columns = some ⟨[9, 3], 5, .none, false, 1, 0, 0⟩ := by decide

/-- V64. -/
theorem test_call_to_a_bad_target_pushes_nothing :
    after (ready 0x08000009 [9] 2) columns = some ⟨[9], 3, .invalidJump, true, 0, 0, 0⟩ := by decide

/-- V66. -/
theorem test_ret : after (ready 0x09000000 [9, 3] 6) columns = some ⟨[9], 3, .none, false, 1, 0, 0⟩ := by
  decide

/-- V68. -/
theorem test_ret_to_a_negative_word :
    after (ready 0x09000000 [0xFFFFFFFF] 6) columns =
      some ⟨[0xFFFFFFFF], 7, .invalidJump, true, 0, 0, 0⟩ := by decide

/-- V71. -/
theorem test_load_global_at_the_last_index :
    after (ready 0x5000003F [] (data := [(.global 63, 0xDEADBEEF)])) columns =
      some ⟨[0xDEADBEEF], 1, .none, false, 1, 1, 0⟩ := by decide

/-- V75. -/
theorem test_load_global_tests_bounds_before_room :
    after (ready 0x50000040 [1, 2] (capacity := 2)) columns =
      some ⟨[1, 2], 1, .memoryBounds, true, 0, 0, 0⟩ := by decide

/-- V78. -/
theorem test_store_global_at_the_last_index :
    after (ready 0x5100003F [0xFFFFFFFF]) (fun t => (columns t, t.mem.read (.global 63))) =
      some (⟨[], 1, .none, false, 1, 1, 0⟩, 0xFFFFFFFF) := by decide

/-- V79. -/
theorem test_store_global_out_of_range_keeps_the_table :
    after (ready 0x51000040 [7] (data := [(.global 0, 100)]))
        (fun t => (columns t, t.mem.read (.global 0))) =
      some (⟨[7], 1, .memoryBounds, true, 0, 0, 0⟩, 100) := by decide

/-- V87. -/
theorem test_load_array :
    after (ready 0x54000002 [5] (data := [(.array 2 5, 77)])) columns =
      some ⟨[77], 1, .none, false, 1, 1, 0⟩ := by decide

/-- V89. -/
theorem test_load_array_index_is_not_truncated :
    after (ready 0x54000002 [0x00010005] (data := [(.array 2 5, 77)])) columns =
      some ⟨[0x00010005], 1, .memoryBounds, true, 0, 0, 0⟩ := by decide

/-- V81. -/
theorem test_store_array_takes_the_index_under_the_value :
    after (ready 0x55000002 [5, 77]) (fun t => (columns t, t.mem.read (.array 2 5))) =
      some (⟨[], 1, .none, false, 1, 1, 0⟩, 77) := by decide

/-- V84. -/
theorem test_store_array_number_out_of_range :
    after (ready 0x55000010 [0, 1]) columns = some ⟨[0, 1], 1, .memoryBounds, true, 0, 0, 0⟩ := by
  decide

/-- V100. -/
theorem test_digital_write :
    after (ready 0x10000000 [13, 1] (answers := [.ok 0])) (fun t => (columns t, t.ports.trace)) =
      some (⟨[], 1, .none, false, 1, 0, 1⟩,
        [.instruction 0 0x10 0, .request (.digitalWrite 13 1) (.ok 0)]) := by decide

/-- V101. -/
theorem test_digital_write_failed :
    after (ready 0x10000000 [13, 1] (answers := [.fail])) columns =
      some ⟨[13, 1], 1, .ioFailure, true, 0, 0, 0⟩ := by decide

/-- V103. -/
theorem test_digital_read :
    after (ready 0x11000000 [2] (answers := [.ok 1])) columns =
      some ⟨[1], 1, .none, false, 1, 0, 1⟩ := by decide

/-- V104. -/
theorem test_analog_write :
    after (ready 0x12000000 [9, 128] (answers := [.ok 0])) (fun t => t.ports.trace) =
      some [.instruction 0 0x12 0, .request (.analogWrite 9 128) (.ok 0)] := by decide

/-- V105. -/
theorem test_analog_read :
    after (ready 0x13000000 [0] (answers := [.ok 512])) columns =
      some ⟨[512], 1, .none, false, 1, 0, 1⟩ := by decide

/-- V107. -/
theorem test_delay_of_zero_still_asks :
    after (ready 0x14000000 [0] (answers := [.ok 0])) (fun t => (columns t, t.ports.trace)) =
      some (⟨[], 1, .none, false, 1, 0, 1⟩,
        [.instruction 0 0x14 0, .request (.delay 0) (.ok 0)]) := by decide

/-- V108. -/
theorem test_pin_mode :
    after (ready 0x17000000 [13, 1] (answers := [.ok 0])) (fun t => t.ports.trace) =
      some [.instruction 0 0x17 0, .request (.pinMode 13 1) (.ok 0)] := by decide

/-- V109. -/
theorem test_button_pressed :
    after (ready 0x15000000 [4] (answers := [.ok 1])) (fun t => (live t, t.ports.trace)) =
      some ([1], [.instruction 0 0x15 0, .request (.buttonPressed 4) (.ok 1)]) := by decide

/-- V110. -/
theorem test_button_released :
    after (ready 0x16000000 [4] (answers := [.ok 0])) (fun t => (live t, t.ports.trace)) =
      some ([0], [.instruction 0 0x16 0, .request (.buttonReleased 4) (.ok 0)]) := by decide

/-- V113. -/
theorem test_printf_clamps_the_count :
    after (ready 0x18000000 [1, 2, 3, 4, 5, 6, 7, 8, 9, 10, 10] (answers := [.ok 0]))
        (fun t => (columns t, t.ports.trace)) =
      some (⟨[1, 2], 1, .none, false, 1, 0, 1⟩,
        [.instruction 0 0x18 0,
          .request (.printf 0 8 [3, 4, 5, 6, 7, 8, 9, 10]) (.ok 0)]) := by decide

/-- V115. -/
theorem test_printf_with_too_few_arguments :
    after (ready 0x18000000 [10, 3]) columns = some ⟨[10, 3], 1, .stackUnderflow, true, 0, 0, 0⟩ := by
  decide

/-- V117. -/
theorem test_millis :
    after (ready 0x19000000 [] (answers := [.ok 1234])) columns =
      some ⟨[1234], 1, .none, false, 1, 0, 1⟩ := by decide

/-- V119: no request is issued. -/
theorem test_millis_tests_room_before_the_request :
    after (ready 0x19000000 [1, 2] (capacity := 2)) (fun t => (columns t, t.ports.trace)) =
      some (⟨[1, 2], 1, .stackOverflow, true, 0, 0, 0⟩, [.instruction 0 0x19 0]) := by decide

/-- V118. -/
theorem test_micros :
    after (ready 0x1A000000 [] (answers := [.ok 1234567])) columns =
      some ⟨[0x0012D687], 1, .none, false, 1, 0, 1⟩ := by decide

/-- V132: the event is still emitted. -/
theorem test_invalid_opcode :
    after (ready 0x1B00002A [1, 2]) (fun t => (columns t, t.ports.trace)) =
      some (⟨[1, 2], 1, .invalidOpcode, true, 0, 0, 0⟩, [.instruction 0 0x1B 42]) := by decide

/-! ### Memory, the fetch word and the host commands -/

theorem test_write_keeps_cells_in_order :
    Memory.write [(.stack 1, 7), (.array 0 3, 9)] (.global 2) 5 =
      [(.stack 1, 7), (.global 2, 5), (.array 0 3, 9)] ∧
    Memory.write [(.stack 1, 7)] (.stack 1) 0 = [] := by decide

theorem test_with_fetch_word_runs_the_word :
    after (State.reset.withFetchWord 32 0x0100002A) columns =
      some ⟨[42], 1, .none, false, 1, 0, 0⟩ := by decide

/-- What a command answers, read by `f` when the block stays on. -/
def answered {α : Type} (c : Command) (s : State) (f : State → α) : Option (α × Report) :=
  match hostCommand c (.on s) with
  | .next (.on t, r) => some (f t, r)
  | .next (.off _ _, _) => none
  | .fault _ => none
  | .refused _ => none

/-- K2. -/
theorem test_step_without_a_program :
    answered .step State.reset columns =
      some (⟨[], 0, .programNotLoaded, false, 0, 0, 0⟩, .failure) := by decide

/-- K5. -/
theorem test_load :
    answered (.load (some [0x0100002A, 0x01000018, 0x03000000, 0x00000000])) State.reset
        (fun t => (t.runState, t.progLen)) = some ((.ready, 4), .success) := by decide

/-- R31: all nine rows are status outputs; none is readable while a RUN is in progress. -/
theorem test_status_outputs_of_a_loaded_program :
    (ready 0 [66]).statusOutputs = some ⟨false, .none, 0, 1, true, 8, 0, 0, 0⟩ ∧
    ({ ready 0 [66] with running := true } : State).statusOutputs = none := by decide

/-- K8. -/
theorem test_step_on_a_stopped_block :
    answered .step { ready 0x00000000 [66] with halted := true } columns =
      some (⟨[66], 0, .none, true, 0, 0, 0⟩, .notExecuted) := by decide

/-- K10. -/
theorem test_reset_keeps_the_program :
    answered .reset { ready 0x0100002A [66] with halted := true }
        (fun t => (t.runState, live t, t.progLen, t.ports.trace)) =
      some ((.ready, [], 8, [.reset, .agent .reinitialise]), .nothing) := by decide

/-- K14's last cycle, as the last turn of its RUN: no event for the failed fetch, then the
CompletionEvent. -/
theorem test_run_ends_at_the_end_of_the_program :
    after { ready 0x00000000 [3] with pc := 8, instrCount := 3, running := true }
        (fun t => (columns t, t.running, t.ports.trace)) =
      some (⟨[3], 8, .invalidJump, true, 3, 0, 0⟩, false,
        [.completion 3 (Config.elapsedMs 0)]) := by rfl

/-! ### Witnesses: the hypotheses of each statement hold together, clause by clause

Each theorem is named after its statement and gives, for every clause, a state and operands at
the boundary of the clause's range. Statements without hypotheses have none. -/

/-- A Ready state with eight instructions and the given stack. -/
def holding (stack : List Word) (answers : List IoAnswer := []) (capacity : Nat := 4096) : State :=
  ready 0 stack (answers := answers) (capacity := capacity)

theorem ready_inv (w : Word) : (ready w []).Inv := by
  refine ⟨test_default_parameters_are_well_formed, ?_, ?_, ?_, ?_, ?_, ?_, ?_, ?_, ?_⟩
  · exact Memory.wf_reset
  · intro c hc; cases hc
  · exact Nat.zero_le _
  · exact Nat.zero_le _
  · show ((List.replicate 8 (0 : Word)).set 0 w).length ≤ 65536
    simp
  · exact ⟨fun _ => by show ((List.replicate 8 (0 : Word)).set 0 w).length ≠ 0; simp, fun _ => rfl⟩
  · intro h; cases h
  · intro _; exact .inl rfl
  · intro h; cases h

theorem test_witness_EncodeIsCanonical :
    Config.cvm32.WellFormed ∧ encode Config.cvm32 (.push 42) = some 0x0100002A :=
  ⟨test_default_parameters_are_well_formed, by decide⟩

theorem test_witness_UnreadBitsAreIgnored :
    (Config.cvm32.operationAt 0x22 = some .lt ∧
      Config.cvm32.isSigned 0x00 = Config.cvm32.isSigned 0xFE) ∧
    Config.cvm32.operationAt 0x01 = some .push := by decide

theorem test_witness_StepRunsTheDecodedInstruction :
    let s := ready 0x0100002A []
    s.progLoaded = true ∧ s.halted = false ∧ s.prog[s.pc.toNat]? = some 0x0100002A ∧
      decode s.cfg 0x0100002A = .ok (.push 42) := by decide

/-- A word no opcode of the map reads, and `pc` one past the last instruction. -/
theorem test_witness_StepWithoutAnInstructionFails :
    let s := ready 0x07000000 []
    let u : State := { ready 0 [] with pc := 8 }
    (s.progLoaded = true ∧ s.halted = false ∧ s.running = false ∧
      s.prog[s.pc.toNat]? = some 0x07000000 ∧
      ∀ o, ((unpack 0x07000000).opcode, o) ∉ s.cfg.opcodeMap) ∧
    u.progLoaded = true ∧ u.halted = false ∧ u.running = false ∧ u.prog.length ≤ u.pc.toNat :=
  ⟨⟨rfl, rfl, rfl, rfl, fun o => by cases o <;> decide⟩, by decide⟩

/-- A dispatch that ends in InvalidOpcode, and one that does not. -/
theorem test_witness_InvalidOpcodeExactlyWhen :
    (∃ t, dispatch 0x53000000 (holding []) = .next t ∧ t.lastError = .invalidOpcode) ∧
    ∃ t, dispatch 0x0100002A (holding []) = .next t ∧ t.lastError ≠ .invalidOpcode :=
  ⟨⟨_, rfl, rfl⟩, _, rfl, by decide⟩

theorem test_witness_HaltedMachineStaysAsItIs :
    let s : State := { ready 0 [] with halted := true }
    s.progLoaded = true ∧ s.halted = true := by decide

/-- HALT ends the RUN, PUSH does not. -/
theorem test_witness_RunTurnIsStepThenCompletion :
    let s : State := { ready 0x00000000 [] with running := true }
    let u : State := { ready 0x01000001 [] with running := true }
    (s.running = true ∧ s.progLoaded = true ∧ s.halted = false ∧
      ∃ t, step { s with running := false } = .next t ∧ t.halted = true) ∧
    (u.running = true ∧ u.progLoaded = true ∧ u.halted = false ∧
      ∃ t, step { u with running := false } = .next t ∧ t.halted = false) :=
  ⟨⟨rfl, rfl, rfl, _, rfl, rfl⟩, rfl, rfl, rfl, _, rfl, rfl⟩

theorem test_witness_EachDispatchEmitsOneEvent :
    let s := ready 0x11000000 [2] (answers := [.ok 1])
    s.progLoaded = true ∧ s.halted = false ∧ s.running = false ∧
      s.prog[s.pc.toNat]? = some 0x11000000 ∧ ∃ t, step s = .next t :=
  ⟨rfl, rfl, rfl, rfl, _, rfl⟩

/-- Full, and one word short of full: also the clauses of TickReadsPushTheAnswer. -/
theorem test_witness_PushPutsTheLiteralOnTop :
    (holding [9, 9] [] 2).cfg.stackCapacity < (holding [9, 9] [] 2).sp + 1 ∧
    (holding [9] [] 2).sp + 1 ≤ (holding [9] [] 2).cfg.stackCapacity := by decide

theorem test_witness_PopDiscardsTheTop : (holding []).sp < 1 ∧ 1 ≤ (holding [4]).sp := by decide

theorem test_witness_PushThenPopKeepsLiveWords :
    (holding [9] [] 2).sp + 1 ≤ (holding [9] [] 2).cfg.stackCapacity ∧
    ∃ t, exec (.push 7) (holding [9] [] 2) = .next t := ⟨by decide, _, rfl⟩

theorem test_witness_AddSubMulPushTheWrappedResult :
    let s := holding [7]
    let u := holding [3, 10]
    ((Instr.sub, u.peek 1 - u.peek 0) ∈ [(Instr.add, u.peek 1 + u.peek 0),
      (.sub, u.peek 1 - u.peek 0), (.mul, u.peek 1 * u.peek 0)]) ∧ s.sp < 2 ∧ 2 ≤ u.sp := by
  decide

theorem test_witness_DivPushesTheTruncatedQuotient :
    (holding [0]).sp < 2 ∧ (2 ≤ (holding [5, 0]).sp ∧ (holding [5, 0]).peek 0 = 0) ∧
    (2 ≤ (holding [5, 1]).sp ∧ (holding [5, 1]).peek 0 ≠ 0) := by decide

/-- An ordinary quotient, and the one that does not fit. -/
theorem test_witness_QuotientHasMagnitudeAndSign :
    let s := holding [0xFFFFFFF9, 2]
    let u := holding [0x80000000, 0xFFFFFFFF]
    (2 ≤ s.sp ∧ s.peek 0 ≠ 0 ∧ ¬ (s.peek 1 = 0x80000000 ∧ s.peek 0 = 0xFFFFFFFF) ∧
      ∃ t, exec .div s = .next t) ∧
    (2 ≤ u.sp ∧ u.peek 0 ≠ 0 ∧ (u.peek 1 = 0x80000000 ∧ u.peek 0 = 0xFFFFFFFF) ∧
      ∃ t, exec .div u = .next t) :=
  ⟨⟨by decide, by decide, by decide, _, rfl⟩, by decide, by decide, by decide, _, rfl⟩

theorem test_witness_ArithmeticWrapsAlikeForBothReadings :
    ((Instr.sub, fun a b => a - b) ∈ [(Instr.add, fun a b : Int => a + b), (.sub, fun a b => a - b),
      (.mul, fun a b => a * b)]) ∧
    2 ≤ (holding [3, 10]).sp ∧ ∃ t, exec .sub (holding [3, 10]) = .next t :=
  ⟨by simp, by decide, _, rfl⟩

theorem test_witness_UnsignedComparisonsPushTheTruth :
    let s := holding [1]
    let u := holding [0xFFFFFFFF, 1]
    s.sp < 2 ∧ 2 ≤ u.sp ∧ decide ((u.peek 1).toNat < (u.peek 0).toNat) = false := by decide

theorem test_witness_SignedComparisonsPushTheTruth :
    let s := holding [1]
    let u := holding [0xFFFFFFFF, 1]
    s.sp < 2 ∧ 2 ≤ u.sp ∧ decide ((u.peek 1).toInt < (u.peek 0).toInt) = true := by decide

theorem test_witness_SignedFormsDifferOnSignBits :
    ((Instr.lt, Instr.ltSigned, true) ∈ [(Instr.lt, Instr.ltSigned, true), (.gt, .gtSigned, true),
      (.le, .leSigned, true), (.ge, .geSigned, true), (.eq, .eqSigned, false),
      (.ne, .neSigned, false)]) ∧
    2 ≤ (holding [0xFFFFFFFF, 1]).sp ∧ (∃ t, exec .lt (holding [0xFFFFFFFF, 1]) = .next t) ∧
    ∃ t, exec .ltSigned (holding [0xFFFFFFFF, 1]) = .next t :=
  ⟨by decide, by decide, ⟨_, rfl⟩, _, rfl⟩

theorem test_witness_JmpSetsPcToAValidTarget :
    (holding []).prog.length ≤ (8 : Imm).toNat ∧ (7 : Imm).toNat < (holding []).prog.length := by
  decide

theorem test_witness_ConditionalJumpsConsumeTheCondition :
    let taken (s : State) : Prop := s.peek 0 ≠ 0
    (Instr.jmpTrue 8 = .jmpTrue 8 ∧ (taken (holding [1]) ↔ (holding [1]).peek 0 ≠ 0)) ∧
    (holding []).sp < 1 ∧
    (1 ≤ (holding [1]).sp ∧ (holding [1]).peek 0 ≠ 0 ∧
      (holding [1]).prog.length ≤ (8 : Imm).toNat) ∧
    (1 ≤ (holding [1]).sp ∧ (holding [1]).peek 0 ≠ 0 ∧
      (7 : Imm).toNat < (holding [1]).prog.length) ∧
    (1 ≤ (holding [0]).sp ∧ ¬ (holding [0]).peek 0 ≠ 0) :=
  ⟨⟨rfl, Iff.rfl⟩, by decide, by decide, by decide, by decide⟩

theorem test_witness_CallPushesTheSuccessor :
    ((holding [9, 9] [] 2).cfg.stackCapacity < (holding [9, 9] [] 2).sp + 1) ∧
    ((holding [9] [] 2).sp + 1 ≤ (holding [9] [] 2).cfg.stackCapacity ∧
      (holding [9] [] 2).prog.length ≤ (8 : Imm).toNat) ∧
    ((holding [9] [] 2).sp + 1 ≤ (holding [9] [] 2).cfg.stackCapacity ∧
      (7 : Imm).toNat < (holding [9] [] 2).prog.length) := by decide

theorem test_witness_RetJumpsToThePoppedWord :
    (holding []).sp < 1 ∧
    (1 ≤ (holding [8]).sp ∧ (holding [8]).prog.length ≤ ((holding [8]).peek 0).toNat) ∧
    (1 ≤ (holding [7]).sp ∧ ((holding [7]).peek 0).toNat < (holding [7]).prog.length) := by decide

/-- With the state the CALL left as the state the RET finds, `pc` elsewhere. -/
theorem test_witness_CallThenRetResumesAtTheSuccessor :
    let s := holding [9] [] 2
    s.sp + 1 ≤ s.cfg.stackCapacity ∧ (7 : Imm).toNat < s.prog.length ∧
    s.pc.toNat < s.prog.length ∧ ∃ t v : State, exec (.call 7) s = .next t ∧ v.pc = 5 ∧
      v.sp = t.sp ∧ v.prog = t.prog ∧ v.mem.read (.stack s.sp) = t.mem.read (.stack s.sp) :=
  ⟨by decide, by decide, by decide, _, { ready 0 [9, 0] 5 [] [] 2 with }, rfl, rfl, rfl, rfl, rfl⟩

theorem test_witness_OnlyTransfersMovePc :
    Instr.operation .add ∉ [.jmp, .jmpTrue, .jmpFalse, .call, .ret] ∧
    ∃ t, exec .add (holding [1, 2]) = .next t := ⟨by decide, _, rfl⟩

/-- A jump to the last index from index 2 and from index 5, over two stacks; CALL; and RET. -/
theorem test_witness_TransfersTakeEffectAtTheNextFetch :
    let s := ready 0x30000007 [] 2
    let u := ready 0x30000007 [9] 5
    let c := ready 0x08000007 [9] 2
    let r := ready 0x09000000 [7] 2
    (s.pc ≠ u.pc ∧ Instr.jmp 7 ≠ .ret ∧
      (∃ t, Slice0.Moves s (.jmp 7) t ∧ Slice0.Transfers (.jmp 7) s) ∧
      ∃ t, Slice0.Moves u (.jmp 7) t ∧ Slice0.Transfers (.jmp 7) u) ∧
    (∃ t, Slice0.Moves c (.call 7) t ∧ Slice0.Transfers (.call 7) c) ∧
    ∃ t, Slice0.Moves r .ret t ∧ Slice0.Transfers .ret r :=
  ⟨⟨by decide, by decide, ⟨_, ⟨rfl, rfl, ⟨_, rfl, rfl⟩, rfl, rfl⟩, .inl (by decide)⟩,
      _, ⟨rfl, rfl, ⟨_, rfl, rfl⟩, rfl, rfl⟩, .inl (by decide)⟩,
    ⟨_, ⟨rfl, rfl, ⟨_, rfl, rfl⟩, rfl, rfl⟩, .inl (by decide)⟩,
    _, ⟨rfl, rfl, ⟨_, rfl, rfl⟩, rfl, rfl⟩, .inl (by decide)⟩

/-- The conditional jumps, taken. -/
theorem test_witness_TransfersTakeEffectAtTheNextFetch_conditional :
    let p := ready 0x31000007 [0x80000000] 2
    let q := ready 0x32000007 [0] 2
    (∃ t, Slice0.Moves p (.jmpTrue 7) t ∧ Slice0.Transfers (.jmpTrue 7) p) ∧
    ∃ t, Slice0.Moves q (.jmpFalse 7) t ∧ Slice0.Transfers (.jmpFalse 7) q :=
  ⟨⟨_, ⟨rfl, rfl, ⟨_, rfl, rfl⟩, rfl, rfl⟩, .inr (.inl ⟨rfl, by decide⟩)⟩,
    _, ⟨rfl, rfl, ⟨_, rfl, rfl⟩, rfl, rfl⟩, .inr (.inr ⟨rfl, by decide⟩)⟩

theorem test_witness_LoadGlobalPushesTheGlobal :
    ((holding []).cfg.globalCount ≤ (64 : Imm).toNat) ∧
    ((63 : Imm).toNat < (holding [1, 2] [] 2).cfg.globalCount ∧
      (holding [1, 2] [] 2).cfg.stackCapacity < (holding [1, 2] [] 2).sp + 1) ∧
    ((63 : Imm).toNat < (holding [1] [] 2).cfg.globalCount ∧
      (holding [1] [] 2).sp + 1 ≤ (holding [1] [] 2).cfg.stackCapacity) := by decide

theorem test_witness_StoreGlobalWritesOneGlobal :
    (holding []).sp < 1 ∧
    (1 ≤ (holding [7]).sp ∧ (holding [7]).cfg.globalCount ≤ (64 : Imm).toNat) ∧
    (1 ≤ (holding [7]).sp ∧ (63 : Imm).toNat < (holding [7]).cfg.globalCount) := by decide

theorem test_witness_LoadArrayPushesTheElement :
    (holding []).sp < 1 ∧
    (1 ≤ (holding [0]).sp ∧ (holding [0]).cfg.arrayCount ≤ (16 : Imm).toNat) ∧
    (holding []).cfg.arrayCaps[(15 : Imm).toNat]? = some 64 ∧
    (1 ≤ (holding [64]).sp ∧ 64 ≤ ((holding [64]).peek 0).toNat) ∧
    (1 ≤ (holding [63]).sp ∧ ((holding [63]).peek 0).toNat < 64) := by decide

theorem test_witness_StoreArrayWritesOneElement :
    (holding [1]).sp < 2 ∧
    (2 ≤ (holding [0, 1]).sp ∧ (holding [0, 1]).cfg.arrayCount ≤ (16 : Imm).toNat) ∧
    (holding []).cfg.arrayCaps[(15 : Imm).toNat]? = some 64 ∧
    (2 ≤ (holding [64, 1]).sp ∧ 64 ≤ ((holding [64, 1]).peek 1).toNat) ∧
    (2 ≤ (holding [63, 1]).sp ∧ ((holding [63, 1]).peek 1).toNat < 64) := by decide

theorem test_witness_OnlyStoresChangeData :
    (∃ t, exec (.storeGlobal 63) (holding [7]) = .next t ∧
      t.mem.read (.global 63) ≠ (holding [7]).mem.read (.global 63)) ∧
    ∃ t, exec (.storeArray 15) (holding [63, 1]) = .next t ∧
      t.mem.read (.array 15 63) ≠ (holding [63, 1]).mem.read (.array 15 63) :=
  ⟨⟨_, rfl, by decide⟩, _, rfl, by decide⟩

/-- The three ways a request is answered: `ok`, `fail`, and a draw where no answer waits. -/
theorem test_witness_PortWritesSendTwoWords :
    (holding [13]).sp < 2 ∧
    (2 ≤ (holding [13, 1] [.ok 0]).sp ∧
      ∃ p, Answered (holding [13, 1] [.ok 0]) (.digitalWrite 13 1) (.ok 0) p) ∧
    (2 ≤ (holding [13, 1] [.fail]).sp ∧
      ∃ p, Answered (holding [13, 1] [.fail]) (.digitalWrite 13 1) .fail p) ∧
    (2 ≤ (holding [13, 1]).sp ∧ ∃ p, Answered (holding [13, 1]) (.digitalWrite 13 1)
      (Config.ioAnswer 0 (.digitalWrite 13 1)) p) :=
  ⟨by decide, ⟨by decide, _, .inl ⟨[], rfl, rfl⟩⟩, ⟨by decide, _, .inl ⟨[], rfl, rfl⟩⟩,
    by decide, _, .inr ⟨rfl, rfl, rfl⟩⟩

theorem test_witness_PortReadsPushTheAnswer :
    (holding []).sp < 1 ∧
    (1 ≤ (holding [2] [.ok 1]).sp ∧
      ∃ p, Answered (holding [2] [.ok 1]) (.digitalRead 2) (.ok 1) p) ∧
    (1 ≤ (holding [2] [.fail]).sp ∧ ∃ p, Answered (holding [2] [.fail]) (.digitalRead 2) .fail p) :=
  ⟨by decide, ⟨by decide, _, .inl ⟨[], rfl, rfl⟩⟩, by decide, _, .inl ⟨[], rfl, rfl⟩⟩

theorem test_witness_DelaySendsOneWord :
    (holding []).sp < 1 ∧
    (1 ≤ (holding [0] [.ok 0]).sp ∧ ∃ p, Answered (holding [0] [.ok 0]) (.delay 0) (.ok 0) p) ∧
    (1 ≤ (holding [0] [.fail]).sp ∧ ∃ p, Answered (holding [0] [.fail]) (.delay 0) .fail p) :=
  ⟨by decide, ⟨by decide, _, .inl ⟨[], rfl, rfl⟩⟩, by decide, _, .inl ⟨[], rfl, rfl⟩⟩

/-- No count word; a count of 3 over one argument; a count of 2 over exactly two. -/
theorem test_witness_PrintfSendsTheClampedArguments :
    let s := holding [10, 20, 2] [.ok 0]
    (holding []).sp < 1 ∧
    (3 = min ((holding [10, 3]).peek 0).toNat (holding [10, 3]).cfg.printfMaxArgs ∧
      (holding [10, 3]).sp < 1 + 3) ∧
    (2 = min (s.peek 0).toNat s.cfg.printfMaxArgs ∧ 1 + 2 ≤ s.sp ∧
      ([10, 20] : List Word).length = 2 ∧
      (∀ (j : Nat) (h : j < ([10, 20] : List Word).length),
        ([10, 20] : List Word)[j] = s.peek (2 - j)) ∧
      ∃ p, Answered s (.printf 0 2 [10, 20]) (.ok 0) p) :=
  ⟨by decide, by decide, by decide, by decide, rfl, by decide, _, .inl ⟨[], rfl, rfl⟩⟩

theorem test_witness_TickReadsPushTheAnswer :
    (holding [1, 2] [] 2).cfg.stackCapacity < (holding [1, 2] [] 2).sp + 1 ∧
    ((holding [1] [.ok 1234] 2).sp + 1 ≤ (holding [1] [.ok 1234] 2).cfg.stackCapacity ∧
      ∃ p, Answered (holding [1] [.ok 1234] 2) .millis (.ok 1234) p) ∧
    ∃ p, Answered (holding [] [.fail]) .micros .fail p :=
  ⟨by decide, ⟨by decide, _, .inl ⟨[], rfl, rfl⟩⟩, _, .inl ⟨[], rfl, rfl⟩⟩

/-- A button poll answered 1, and a MILLIS answered 9 after one answered 9. -/
theorem test_witness_AgentContractBoundsTheAnswers :
    (∃ t, exec .buttonPressed (holding [4] [.ok 1]) = .next t ∧ t.lastError = .none ∧
      AgentContract t.ports.trace) ∧
    ∃ s t, exec .millis s = .next t ∧ t.lastError = .none ∧ AgentContract t.ports.trace ∧
      latestTick .millis s.ports.trace = some 9 := by
  refine ⟨⟨_, rfl, rfl, ?_, by decide⟩, { holding [] with
    ports := { answers := [.ok 9], draws := 0, trace := [.request .millis (.ok 9)] } }, _, rfl, rfl,
    ⟨?_, by decide⟩, by decide⟩
  · intro r a h
    rcases List.mem_singleton.mp h with h
    cases h; decide
  · intro r a h
    rcases List.mem_cons.mp h with h | h
    · cases h; decide
    · cases List.mem_singleton.mp h; decide

/-- A failure before any request, and one by the port. -/
theorem test_witness_FailuresArePrecise :
    (∃ t, exec .pop (holding []) = .next t ∧ t.lastError ≠ .none ∧ t.lastError ≠ .ioFailure) ∧
    ∃ t, exec .millis (holding [] [.fail]) = .next t ∧ t.lastError = .ioFailure :=
  ⟨⟨_, rfl, by decide, by decide⟩, _, rfl, rfl⟩

/-- Each error raised by an instruction that raises it, for the statements ...ExactlyWhen. -/
theorem test_witness_ExactlyWhen :
    (∃ t, exec (.loadGlobal 63) (holding [1, 2] [] 2) = .next t ∧ t.lastError = .stackOverflow) ∧
    (∃ t, exec (.printf 0) (holding [10, 3]) = .next t ∧ t.lastError = .stackUnderflow) ∧
    (∃ t, exec (.storeArray 16) (holding [0, 1]) = .next t ∧ t.lastError = .memoryBounds) ∧
    (∃ t, exec .div (holding [5, 0]) = .next t ∧ t.lastError = .divisionByZero) ∧
    (∃ t, exec (.jmpFalse 8) (holding [0]) = .next t ∧ t.lastError = .invalidJump) ∧
    (∃ t, exec .micros (holding [] [.fail]) = .next t ∧ t.lastError = .ioFailure) :=
  ⟨⟨_, rfl, rfl⟩, ⟨_, rfl, rfl⟩, ⟨_, rfl, rfl⟩, ⟨_, rfl, rfl⟩, ⟨_, rfl, rfl⟩, _, rfl, rfl⟩

/-- A completed memory operation, a completed I/O operation, a HALT and a failure. -/
theorem test_witness_CountersCountCompletions :
    (∃ t, exec (.loadArray 15) (holding [63]) = .next t ∧ t.lastError = .none) ∧
    (∃ t, exec .micros (holding [] [.ok 5]) = .next t ∧ t.lastError = .none) ∧
    (∃ t, exec .halt (holding []) = .next t ∧ t.halted = true) ∧
    ∃ t, exec .ret (holding []) = .next t ∧ t.lastError ≠ .none :=
  ⟨⟨_, rfl, rfl⟩, ⟨_, rfl, rfl⟩, ⟨_, rfl, rfl⟩, _, rfl, by decide⟩

/-- Also a witness of HaltedIsSetByHaltOrFailureOnly's hypothesis. -/
theorem test_witness_StepsKeepProgramAndParameters :
    (∃ t, step (ready 0x0100002A []) = .next t) ∧ ∃ t, exec .halt (holding []) = .next t :=
  ⟨⟨_, rfl⟩, _, rfl⟩

theorem test_witness_StepsKeepTheInvariant :
    (ready 0x0100002A []).Inv ∧ ∃ t, step (ready 0x0100002A []) = .next t :=
  ⟨ready_inv _, _, rfl⟩

/-- A LOAD, a RESET and a RUN_PROGRAM on a state that meets the invariant. -/
theorem test_witness_HostCommandsKeepTheInvariant :
    (ready 0 []).Inv ∧
    (∃ t r, hostCommand (.load (some [0x00000000])) (.on (ready 0 [])) = .next (.on t, r)) ∧
    (∃ t r, hostCommand .reset (.on (ready 0 [])) = .next (.on t, r)) ∧
    ∃ t r, hostCommand (.runProgram (some [0x00000000])) (.on (ready 0 [])) = .next (.on t, r) :=
  ⟨ready_inv _, ⟨_, _, rfl⟩, ⟨_, _, rfl⟩, _, _, rfl⟩

theorem test_witness_PowerOnAndResetValues : (ready 0 [66]).running = false := by decide

/-- The shortest and the longest program accepted, the empty one, one word too many, and none. -/
theorem test_witness_LoadInstallsOrRejects :
    let s := ready 0 []
    s.running = false ∧
    (1 ≤ ([0] : List Word).length ∧ ([0] : List Word).length ≤ s.cfg.progMax) ∧
    (1 ≤ (List.replicate 65536 (0 : Word)).length ∧
      (List.replicate 65536 (0 : Word)).length ≤ s.cfg.progMax) ∧
    ([] : List Word).length = 0 ∧
    s.cfg.progMax < (List.replicate 65537 (0 : Word)).length ∧
    (none : Option (List Word)) = none := by
  simp only [List.length_replicate]
  decide

/-- Empty, halted, and Ready, for STEP and RUN alike; a LOAD accepted and one rejected. -/
theorem test_witness_StepAndRunReport :
    let s : State := { ready 0 [] with halted := true }
    (State.reset.running = false ∧ State.reset.progLoaded = false) ∧
    (s.running = false ∧ s.progLoaded = true ∧ s.halted = true) ∧
    ((ready 0 []).running = false ∧ (ready 0 []).progLoaded = true ∧
      (ready 0 []).halted = false) ∧
    (∃ t, hostCommand (.load (some [0])) (.on (ready 0 [])) = .next (.on t, .success)) ∧
    ∃ t, hostCommand (.load none) (.on (ready 0 [])) = .next (.on t, .failure) :=
  ⟨by decide, by decide, by decide, ⟨_, rfl⟩, _, rfl⟩

/-- A Failed state: a step, a RESET, an accepted LOAD, a rejected one and a STEP; and POWER_ON. -/
theorem test_witness_FailedIsLeftByResetLoadOrPowerOn :
    let s : State := { ready 0 [5] 3 with halted := true, lastError := .divisionByZero }
    s.runState = .failed ∧ (∃ t, step s = .next t) ∧
    (∃ t r, Slice0.StartsOverCommand .reset s ∧ hostCommand .reset (.on s) = .next (.on t, r)) ∧
    (∃ t r, Slice0.StartsOverCommand (.load (some [0])) s ∧
      hostCommand (.load (some [0])) (.on s) = .next (.on t, r)) ∧
    (∃ t r, ¬ Slice0.StartsOverCommand (.load (some [])) s ∧
      hostCommand (.load (some [])) (.on s) = .next (.on t, r)) ∧
    (∃ t r, ¬ Slice0.StartsOverCommand .step s ∧ hostCommand .step (.on s) = .next (.on t, r)) ∧
    ∃ t r, hostCommand .powerOn (.off Config.cvm32 State.reset.ports) = .next (.on t, r) := by
  refine ⟨rfl, ⟨_, rfl⟩, ⟨_, _, .inl rfl, rfl⟩, ⟨_, _, .inr ⟨[0], by decide, by decide, rfl⟩, rfl⟩,
    ⟨_, _, ?_, rfl⟩, ⟨_, _, ?_, rfl⟩, _, _, rfl⟩
  · rintro (h | ⟨ws, h1, -, h⟩)
    · cases h
    · cases h; exact absurd h1 (by decide)
  · rintro (h | ⟨_, _, _, h⟩) <;> cases h

theorem test_witness_CommandsOutOfPlaceStop :
    ({ ready 0 [] with running := true } : State).running = true ∧ Command.step ≠ .powerOn := by
  decide

end Sys2Proof.Tests
end

section
/-! SUPPORT. The invariant of the state, kept by every step (R42) and every host command; the
program, the counters, `halted` and `pc` read off `exec_cases`; and which data cells an
instruction can change (R36, R37). -/

namespace Sys2Proof.Machine

/-! ### What a step leaves of the program -/

/-- The end of a move changes `running` and the ports alone. -/
theorem afterCycle_frame (s : State) :
    s.afterCycle.prog = s.prog ∧ s.afterCycle.progLoaded = s.progLoaded ∧
      s.afterCycle.cfg = s.cfg := by
  unfold State.afterCycle
  split <;> exact ⟨rfl, rfl, rfl⟩

/-- Settles O51: a rejection and a halted machine leave the program alone, and so do the cycle
and the end of the move. -/
theorem stepsKeepProgramAndParameters : Obligations.StepsKeepProgramAndParameters := by
  intro s t h
  rcases step_cases h with ⟨-, rfl⟩ | ⟨-, -, rfl⟩ | ⟨u, -, -, hu, rfl⟩
  · exact ⟨rfl, rfl, rfl⟩
  · exact ⟨rfl, rfl, rfl⟩
  · obtain ⟨hprog, hloaded, hcfg, -⟩ := cycle_frame hu
    obtain ⟨hprog', hloaded', hcfg'⟩ := afterCycle_frame u
    exact ⟨hprog'.trans hprog, hloaded'.trans hloaded, hcfg'.trans hcfg⟩

/-! ### The invariant under a step -/

/-- A fetched word's index has a successor that is at most `prog_len`: the 32-bit `pc` cannot
wrap, as `prog_len <= PROG_MAX <= 2^31 - 1` (R10, R21). -/
theorem inv_advance {s : State} {w : Word} (h : s.Inv) (hf : s.fetch = some w) :
    s.advance.Inv := by
  have hpc : s.pc.toNat < s.prog.length := (List.getElem?_eq_some_iff.mp hf).1
  have hmax := h.config.progMax.2
  have hlen := h.length
  have hnext : (s.pc + 1).toNat ≤ s.prog.length := by
    rw [BitVec.toNat_add_of_lt] <;> simp <;> omega
  exact { h with pc := hnext }

/-- A dispatch keeps every part of the invariant but that a RUN is over once the machine has
halted, which is the business of the end of the move. -/
theorem inv_dispatch {w : Word} {s t : State} (h : s.Inv) (hl : s.progLoaded = true)
    (ht : dispatch w s = .next t) : ({ t with running := false } : State).Inv := by
  obtain ⟨hprog, hloaded, hcfg, -⟩ := dispatch_frame ht
  obtain ⟨hmem, hsp, hpc⟩ := dispatch_bounds h.stack ht
  refine
    { config := hcfg ▸ h.config
      memory := ?memory
      cells := ?cells
      stack := hcfg ▸ hsp
      pc := ?pc
      length := ?length
      loaded := ?loaded
      empty := fun he => ?empty
      ready := fun hh => .inl (dispatch_error_none (t := t) ht hh)
      run := fun hr => nomatch hr }
  case memory =>
    rcases hmem with hmem | ⟨a, x, hmem, -⟩ <;> rw [hmem]
    · exact h.memory
    · exact Memory.wf_write h.memory a x
  case cells =>
    rw [hcfg]
    rcases hmem with hmem | ⟨a, x, hmem, ha⟩ <;> rw [hmem]
    · exact h.cells
    · exact cells_write x ha h.cells
  case pc =>
    have hle := h.pc
    rw [hprog]
    rcases hpc with hpc | hpc
    · exact hpc ▸ hle
    · exact hpc.le
  case length => rw [hprog, hcfg]; exact h.length
  case loaded => rw [hprog, hloaded]; exact h.loaded
  case empty => exact absurd (hloaded.symm.trans he) (by simp [hl])

/-- A cycle in Ready keeps every part of the invariant but the end of a RUN. -/
theorem inv_cycle {s t : State} (h : s.Inv) (hl : s.progLoaded = true) (ht : cycle s = .next t) :
    ({ t with running := false } : State).Inv := by
  rcases cycle_cases ht with ⟨-, rfl⟩ | ⟨w, v, hf, hv, rfl⟩
  · exact
      { h with
        empty := fun he => absurd (hl.symm.trans he) (by decide)
        ready := fun hh => nomatch hh
        run := fun hr => nomatch hr }
  · exact { inv_dispatch (inv_advance h hf) hl hv with }

/-- The end of a move restores that a RUN is in progress only in Ready (R237). -/
theorem inv_afterCycle {s : State} (h : ({ s with running := false } : State).Inv)
    (hl : s.progLoaded = true) : s.afterCycle.Inv := by
  cases hh : s.halted with
  | false => rw [afterCycle_going hh]; exact { h with run := fun _ => ⟨hl, hh⟩ }
  | true =>
    cases hr : s.running with
    | true => rw [afterCycle_halted hr hh]; exact { h with }
    | false =>
      rw [afterCycle_idle hr]
      exact { h with run := fun hr' => absurd (hr.symm.trans hr') (by decide) }

/-- Settles O54, by what one move of the engine can be (`step_cases`). -/
theorem stepsKeepTheInvariant : Obligations.StepsKeepTheInvariant := by
  intro s t hs h
  rcases step_cases h with ⟨-, rfl⟩ | ⟨-, -, rfl⟩ | ⟨u, hl, -, hu, rfl⟩
  · exact inv_rejectCommand hs
  · exact hs
  · obtain ⟨-, hloaded, -⟩ := cycle_frame hu
    exact inv_afterCycle (inv_cycle hs hl hu) (hloaded.trans hl)

/-! ### The invariant at POWER_ON and under the host commands -/

/-- POWER_ON with parameters that meet R7 to R12 establishes the invariant. -/
theorem inv_powerOn {c : Config} (h : c.WellFormed) (p : Ports) : (State.powerOn c p).Inv where
  config := h
  memory := Memory.wf_reset
  cells := fun _ hx => nomatch hx
  stack := Nat.zero_le _
  pc := Nat.zero_le _
  length := Nat.zero_le _
  loaded := by simp [State.powerOn]
  empty := fun _ => rfl
  ready := fun _ => .inl rfl
  run := fun hr => nomatch hr

theorem wellFormed_cvm32 : Config.cvm32.WellFormed := by
  constructor <;> decide

/-- Settles O53: the default parameters meet R7 to R12. -/
theorem invariantHoldsAtReset : Obligations.InvariantHoldsAtReset :=
  inv_powerOn wellFormed_cvm32 Ports.reset

/-- RESET keeps the program and zeroes the rest (R232); a RUN, if one is in progress, then has a
machine that is not halted, and its program. -/
theorem inv_hostReset {s : State} (h : s.Inv) : s.hostReset.Inv :=
  { h with
    memory := Memory.wf_reset
    cells := fun _ hx => nomatch hx
    stack := Nat.zero_le _
    pc := Nat.zero_le _
    empty := fun _ => rfl
    ready := fun _ => .inl rfl
    run := fun hr => ⟨(h.run hr).1, rfl⟩ }

/-- An accepted program (R234) is installed in a Ready block. -/
theorem inv_install {s : State} {ws : List Word} (h : s.Inv) (h1 : ws.length ≠ 0)
    (h2 : ws.length ≤ s.cfg.progMax) : (s.install ws).Inv where
  config := h.config
  memory := Memory.wf_clearStack h.memory
  cells := fun x hx => h.cells x (List.mem_of_mem_filter hx)
  stack := Nat.zero_le _
  pc := Nat.zero_le _
  length := h2
  loaded := iff_of_true rfl h1
  empty := fun _ => rfl
  ready := fun _ => .inl rfl
  run := fun _ => ⟨rfl, rfl⟩

/-- LOAD, accepted or rejected, keeps the invariant. -/
theorem inv_hostLoad {s : State} (words : Option (List Word)) (h : s.Inv) :
    (hostLoad words s).1.Inv := by
  cases words with
  | none => exact inv_rejectCommand h
  | some ws =>
    by_cases hws : ws.length = 0 ∨ s.cfg.progMax < ws.length
    · rw [hostLoad_rejected hws]
      exact inv_rejectCommand h
    · obtain ⟨h1, h2⟩ := not_or.mp hws
      rw [hostLoad_accepted (Nat.one_le_iff_ne_zero.mpr h1) (not_lt.mp h2)]
      exact inv_install h h1 (not_lt.mp h2)

/-- RUN begins only in Ready. -/
theorem inv_hostRun {s : State} (h : s.Inv) : (hostRun s).1.Inv := by
  unfold hostRun
  split
  · next hl =>
    split
    · exact h
    · next hh => exact { h with run := fun _ => ⟨hl, Bool.eq_false_of_not_eq_true hh⟩ }
  · exact inv_rejectCommand h

/-- RUN_PROGRAM is LOAD and then, where it was accepted, RUN (R238). -/
theorem inv_hostRunProgram {s : State} (words : Option (List Word)) (h : s.Inv) :
    (hostRunProgram words s).1.Inv := by
  have hload := inv_hostLoad words h
  unfold hostRunProgram
  split
  · next heq => rw [heq] at hload; exact inv_hostRun hload
  · next heq => rw [heq] at hload; exact hload

/-- Settles O55, command by command; STEP is `stepsKeepTheInvariant`. -/
theorem hostCommandsKeepTheInvariant : Obligations.HostCommandsKeepTheInvariant := by
  intro c s t r hs h
  cases hr : s.running with
  | true => simp [hostCommand, hr] at h
  | false =>
    rw [hostCommand_on hr] at h
    cases c with
    | powerOn => cases h
    | load words => cases h; exact inv_hostLoad words hs
    | reset => cases h; exact inv_hostReset hs
    | step =>
      simp only [commandOn] at h
      split at h <;> cases h
      next hstep => exact stepsKeepTheInvariant s t hs hstep
    | run => cases h; exact inv_hostRun hs
    | runProgram words => cases h; exact inv_hostRunProgram words hs
    | teardown => cases h

/-! ### `pc`, `halted` and the counters -/

/-- Settles O30: a completed instruction that is no transfer keeps `pc`, and so does every
failure. -/
theorem onlyTransfersMovePc : Obligations.OnlyTransfersMovePc := by
  intro i s t hi h
  rcases exec_cases h with ⟨u, rfl, hpc, -⟩ | ⟨e, rfl, -⟩ | ⟨r, -, rfl⟩
  · exact hpc hi
  · rfl
  · rfl

/-- Settles O50: completion counts as `exec_cases` says, a failure leaves the counters. -/
theorem countersCountCompletions : Obligations.CountersCountCompletions := by
  intro i s t h
  rcases exec_cases h with
    ⟨u, rfl, -, -, hinstr, -, -, -, -, hmem, hio, -⟩ | ⟨e, rfl, he, -⟩ | ⟨r, -, rfl⟩
  · simp [hinstr, hmem, hio]
  · simp [he]
  · simp

/-- Settles O52: a completed instruction sets `halted` only if it is HALT, a failure always. -/
theorem haltedIsSetByHaltOrFailureOnly : Obligations.HaltedIsSetByHaltOrFailureOnly := by
  intro i s t h
  rcases exec_cases h with ⟨u, rfl, -, hhalted, -⟩ | ⟨e, rfl, he, -⟩ | ⟨r, -, rfl⟩
  · simp [hhalted]
  · simp [he]
  · simp

/-! ### The step in Ready -/

/-- Settles O7: the fetch, the decoder and the rule each answer as the hypotheses say, so the cycle
is the rule and then its event. -/
theorem stepRunsTheDecodedInstruction : Obligations.StepRunsTheDecodedInstruction := by
  intro s w i hl hh hf hd
  obtain ⟨t, ht⟩ := exec_next i s.advance
  refine ⟨t, ht, ?_⟩
  have hfetch : s.fetch = some w := hf
  have hdispatch : dispatch w s.advance = .next t := (dispatch_ok (s := s.advance) hd).trans ht
  rw [step_ready hl hh, cycle_fetch hfetch, hdispatch]
  rfl

/-! ### PUSH and POP -/

theorem exec_push_of_room {s : State} (n : Imm) (h : s.sp + 1 ≤ s.cfg.stackCapacity) :
    exec (.push n) s = .next (s.push (zext32 n)).complete :=
  settle_eq_next.mpr (by rw [room_of_le h, finish_done])

theorem exec_pop_of_pos {s : State} (h : 1 ≤ s.sp) : exec .pop s = .next (s.drop 1).complete :=
  settle_eq_next.mpr (by rw [need_of_le h, finish_done])

/-- Settles O17: the push writes the free cell at `sp` only, the pop writes none. -/
theorem pushThenPopKeepsLiveWords : Obligations.PushThenPopKeepsLiveWords := by
  intro s t n hroom h
  rw [exec_push_of_room n hroom] at h
  cases h
  refine ⟨_, exec_pop_of_pos (by simp), by simp, fun a ha => ?_⟩
  exact read_push_other s (zext32 n) ha

/-! ### The data cells -/

/-- `t` has the globals and the array elements of `s`; its stack words are free. -/
def State.KeepsData (s t : State) : Prop :=
  ∀ a : Addr, a.isStack = false → t.mem.read a = s.mem.read a

/-- No change of a state that leaves the cells as they are touches the data. -/
theorem keepsData_of_mem {s t : State} (h : t.mem = s.mem) : s.KeepsData t :=
  fun a _ => by rw [h]

/-- A push writes a stack word, whatever was dropped or asked before it. -/
theorem keepsData_push {s u : State} (w : Word) (h : u.mem = s.mem) : s.KeepsData (u.push w) := by
  intro a ha
  have hne : a ≠ .stack u.sp := by rintro rfl; cases ha
  rw [read_push_other u w hne, h]

theorem keepsData_need {n : Nat} {s : State} {k : Result} (h : s.KeepsData k.finish) :
    s.KeepsData (need n s k).finish := by
  rw [finish_need]
  split
  · exact keepsData_of_mem rfl
  · exact h

theorem keepsData_room {n : Nat} {s : State} {k : Result} (h : s.KeepsData k.finish) :
    s.KeepsData (room n s k).finish := by
  rw [finish_room]
  split
  · exact keepsData_of_mem rfl
  · exact h

theorem keepsData_check {ok : Bool} {e : ErrorCode} {s : State} {k : Result}
    (h : s.KeepsData k.finish) : s.KeepsData (check ok e s k).finish := by
  cases ok
  · exact keepsData_of_mem rfl
  · exact h

/-- A transaction changes no cell but by its writes. -/
theorem keepsData_transact {r : IoRequest} {s : State} {writes : Word → State → State}
    (h : ∀ v, s.KeepsData (writes v (s.asked r))) :
    s.KeepsData (transact r s writes).finish := by
  rcases finish_transact_cases r s writes with ⟨-, e⟩ | ⟨v, -, e⟩ <;> rw [e]
  · exact keepsData_of_mem rfl
  · exact h v

theorem keepsData_binary (f : Word → Word → Word) (s : State) :
    s.KeepsData (binary f s).finish :=
  keepsData_need (keepsData_push (u := s.drop 2) _ rfl)

theorem keepsData_conditional (taken : Word → Bool) (t : Word) (s : State) :
    s.KeepsData (conditional taken t s).finish := by
  refine keepsData_need (keepsData_check (keepsData_of_mem ?_))
  rw [finish_done]
  split <;> rfl

theorem keepsData_portWrite (request : Word → Word → IoRequest) (s : State) :
    s.KeepsData (portWrite request s).finish :=
  keepsData_need (keepsData_transact fun _ => keepsData_of_mem rfl)

theorem keepsData_portRead (request : Word → IoRequest) (s : State) :
    s.KeepsData (portRead request s).finish :=
  keepsData_need (keepsData_transact fun v => keepsData_push v rfl)

theorem keepsData_portSample (request : IoRequest) (s : State) :
    s.KeepsData (portSample request s).finish :=
  keepsData_room (keepsData_transact fun v => keepsData_push v rfl)

/-- STORE_GLOBAL writes no cell, or the one its immediate names, which exists (R152). -/
theorem exec_storeGlobal_mem {n : Imm} {s t : State} (h : exec (.storeGlobal n) s = .next t) :
    t.mem = s.mem ∨
      (n.toNat < s.cfg.globalCount ∧ t.mem = s.mem.write (.global n.toNat) (s.peek 0)) := by
  obtain rfl := settle_eq_next.mp h
  rw [finish_need, finish_check, globalOk_eq, globalCell_eq]
  split
  · exact .inl rfl
  · split
    · next hok => exact .inr ⟨of_decide_eq_true hok, rfl⟩
    · exact .inl rfl

/-- STORE_ARRAY writes no cell, or the one its immediate and its index word name, which exists
(R154). -/
theorem exec_storeArray_mem {n : Imm} {s t : State} (h : exec (.storeArray n) s = .next t) :
    t.mem = s.mem ∨
      (cellExists s.cfg (.array n.toNat (s.peek 1).toNat) = true ∧
        t.mem = s.mem.write (.array n.toNat (s.peek 1).toNat) (s.peek 0)) := by
  obtain rfl := settle_eq_next.mp h
  rw [finish_need, finish_check, elementOk_eq, elementCell_eq]
  split
  · exact .inl rfl
  · split
    · next hok => exact .inr ⟨hok, rfl⟩
    · exact .inl rfl

/-- What any instruction does to the data cells: it keeps them all, or it is a store, which writes
the one cell its operands name, a cell that exists (R36, R37). -/
theorem exec_data_cases {i : Instr} {s t : State} (h : exec i s = .next t) :
    s.KeepsData t ∨
    (∃ n, i = .storeGlobal n ∧ n.toNat < s.cfg.globalCount ∧
      t.mem = s.mem.write (.global n.toNat) (s.peek 0)) ∨
    ∃ n, i = .storeArray n ∧ cellExists s.cfg (.array n.toNat (s.peek 1).toNat) = true ∧
      t.mem = s.mem.write (.array n.toNat (s.peek 1).toNat) (s.peek 0) := by
  have keeps : ∀ {r : Result} {p : Prop}, settle r = .next t → s.KeepsData r.finish →
      s.KeepsData t ∨ p := fun hr hk => .inl (settle_eq_next.mp hr ▸ hk)
  cases i with
  | halt => exact keeps h (keepsData_of_mem rfl)
  | push n => exact keeps h (keepsData_room (keepsData_push _ rfl))
  | pop => exact keeps h (keepsData_need (keepsData_of_mem rfl))
  | add | sub | mul | eq | eqSigned | ne | neSigned | lt | ltSigned | gt | gtSigned | le
    | leSigned | ge | geSigned => exact keeps h (keepsData_binary _ s)
  | div => exact keeps h (keepsData_need (keepsData_check (keepsData_binary _ s)))
  | jmp n => exact keeps h (keepsData_check (keepsData_of_mem rfl))
  | jmpTrue n | jmpFalse n => exact keeps h (keepsData_conditional _ _ s)
  | call n => exact keeps h (keepsData_room (keepsData_check (keepsData_push _ rfl)))
  | ret => exact keeps h (keepsData_need (keepsData_check (keepsData_of_mem rfl)))
  | digitalWrite | analogWrite | pinMode => exact keeps h (keepsData_portWrite _ s)
  | digitalRead | analogRead | buttonPressed | buttonReleased =>
    exact keeps h (keepsData_portRead _ s)
  | millis | micros => exact keeps h (keepsData_portSample _ s)
  | delay => exact keeps h (keepsData_need (keepsData_transact fun _ => keepsData_of_mem rfl))
  | printf n =>
    exact keeps h
      (keepsData_need (keepsData_need (keepsData_transact fun _ => keepsData_of_mem rfl)))
  | loadGlobal n => exact keeps h (keepsData_check (keepsData_room (keepsData_push _ rfl)))
  | loadArray n => exact keeps h (keepsData_need (keepsData_check (keepsData_push _ rfl)))
  | storeGlobal n =>
    rcases exec_storeGlobal_mem h with hm | ⟨hn, hm⟩
    · exact .inl (keepsData_of_mem hm)
    · exact .inr (.inl ⟨n, rfl, hn, hm⟩)
  | storeArray n =>
    rcases exec_storeArray_mem h with hm | ⟨hc, hm⟩
    · exact .inl (keepsData_of_mem hm)
    · exact .inr (.inr ⟨n, rfl, hc, hm⟩)

/-- A cell that reads differently after a write is the cell written (R55). -/
theorem Memory.eq_of_read_write_ne {m : Memory} {a b : Addr} {w : Word}
    (h : (m.write a w).read b ≠ m.read b) : b = a :=
  of_not_not fun hne => h (Memory.read_write_other m w hne)

/-- Settles O36, by the three cases of `exec_data_cases` for the one cell that changed. -/
theorem onlyStoresChangeData : Obligations.OnlyStoresChangeData := by
  intro i s t h
  rcases exec_data_cases h with hkept | ⟨n, rfl, hn, hmem⟩ | ⟨n, rfl, hcell, hmem⟩
  · exact ⟨fun k hk => absurd (hkept _ rfl) hk, fun a k hk => absurd (hkept _ rfl) hk⟩
  · rw [hmem]
    refine ⟨fun k hk => ?_, fun a k hk => ?_⟩
    · cases Memory.eq_of_read_write_ne hk
      exact ⟨n, rfl, rfl, hn⟩
    · cases Memory.eq_of_read_write_ne hk
  · rw [hmem]
    refine ⟨fun k hk => ?_, fun a k hk => ?_⟩
    · cases Memory.eq_of_read_write_ne hk
    · cases Memory.eq_of_read_write_ne hk
      exact ⟨n, rfl, rfl, rfl, hcell⟩

end Sys2Proof.Machine
end

section
/-! SUPPORT. The encoding (30_encoding.md): what a form reads of a word, what decodes to an
instruction, what its canonical word holds, the invalid opcodes of the default map, and the packed
image read back. -/

namespace Sys2Proof

/-! ### The form of an operation -/

/-- The operations whose number is written, listed (R82, R92). -/
theorem Operation.takesNumber_iff {o : Operation} : o.takesNumber = true ↔
    o ∈ [.push, .call, .printf, .jmp, .jmpTrue, .jmpFalse, .loadGlobal, .storeGlobal,
      .loadArray, .storeArray] := by
  simp only [Operation.takesNumber, decide_eq_true_eq]

/-- A form reads its flag exactly when it is a comparison (R83, R84) and its immediate exactly when
its number is written (R82, R85). -/
theorem formOf_eq_formOf_iff (o : Operation) (s s' : Bool) (n n' : Imm) :
    formOf o s n = formOf o s' n' ↔
      (o ∈ [.eq, .ne, .lt, .gt, .le, .ge] → s = s') ∧ (o.takesNumber = true → n = n') := by
  cases o with
  | push | call | printf | jmp | jmpTrue | jmpFalse | loadGlobal | storeGlobal | loadArray
    | storeArray => simp [formOf, Operation.takesNumber]
  | eq | ne | lt | gt | le | ge =>
    cases s <;> cases s' <;> simp [formOf, Operation.takesNumber]
  | halt | pop | add | sub | mul | div | ret | digitalWrite | digitalRead | analogWrite | analogRead
    | delay | buttonPressed | buttonReleased | pinMode | millis | micros =>
    simp [formOf, Operation.takesNumber]

/-! ### What a word decodes to -/

theorem decodeFields_of_some {c : Config} {f : Fields} {o : Operation}
    (h : c.operationAt f.opcode = some o) :
    decodeFields c f = .ok (formOf o (c.isSigned f.flags) f.imm) := by
  simp only [decodeFields, h]

theorem decodeFields_of_none {c : Config} {f : Fields} (h : c.operationAt f.opcode = none) :
    decodeFields c f = .error (.invalidOpcode f.opcode) := by
  simp only [decodeFields, h]

/-- A word decodes to an instruction exactly when the map gives its opcode the operation and its
other fields agree with the instruction in what the form reads (R83 to R85, R90). -/
theorem decode_eq_ok_iff {c : Config} {w : Word} {i : Instr} : decode c w = .ok i ↔
    c.operationAt (unpack w).opcode = some i.operation ∧
      (i.operation ∈ [.eq, .ne, .lt, .gt, .le, .ge] → c.isSigned (unpack w).flags = i.isSigned) ∧
      (i.operation.takesNumber = true → (unpack w).imm = i.immediate) := by
  rw [← formOf_eq_formOf_iff, formOf_parts]
  constructor
  · intro h
    cases ho : c.operationAt (unpack w).opcode with
    | none => cases (decodeFields_of_none ho).symm.trans h
    | some o =>
      cases (decodeFields_of_some ho).symm.trans h
      rw [formOf_operation]
      exact ⟨rfl, rfl⟩
  · rintro ⟨ho, hform⟩
    exact (decodeFields_of_some ho).trans (congrArg _ hform)

/-- A word is rejected exactly when the map does not list its opcode (R88, R194). -/
theorem decode_eq_invalidOpcode_iff {c : Config} {w : Word} :
    decode c w = .error (.invalidOpcode (unpack w).opcode) ↔
      c.operationAt (unpack w).opcode = none := by
  refine ⟨fun h => ?_, decodeFields_of_none⟩
  cases ho : c.operationAt (unpack w).opcode with
  | none => rfl
  | some o => cases (decodeFields_of_some ho).symm.trans h

/-- Decoding is total: a word that is not rejected for its opcode is an instruction (R89). -/
theorem exists_decode_eq_ok_iff {c : Config} {w : Word} : (∃ i, decode c w = .ok i) ↔
    decode c w ≠ .error (.invalidOpcode (unpack w).opcode) := by
  constructor
  · rintro ⟨i, hi⟩ he
    cases hi.symm.trans he
  · intro h
    obtain ⟨o, ho⟩ := Option.ne_none_iff_exists'.mp (mt decode_eq_invalidOpcode_iff.mpr h)
    exact ⟨_, decodeFields_of_some ho⟩

/-- Settles O5: the form reads no field in which the two words differ. -/
theorem unreadBitsAreIgnored : Obligations.UnreadBitsAreIgnored := by
  intro c o f g ho hop hflag himm
  rw [decodeFields_of_some ho, decodeFields_of_some (hop ▸ ho),
    (formOf_eq_formOf_iff ..).mpr ⟨hflag, fun h => himm (Operation.takesNumber_iff.mp h)⟩]

/-- Settles O6, by evaluation of the decoder. -/
theorem listedWordsDecode : Obligations.ListedWordsDecode :=
  ⟨rfl, rfl, rfl, rfl, rfl, rfl, rfl, rfl, rfl⟩

/-! ### The opcode map -/

/-- A lookup in a map that numbers nothing twice gives exactly the listed rows (R12). -/
theorem operationAt_eq_some_iff {c : Config} (h : c.OpcodesDistinct) {b : Byte} {o : Operation} :
    c.operationAt b = some o ↔ (b, o) ∈ c.opcodeMap :=
  ⟨mem_of_lookup, lookup_of_mem h⟩

/-- No operation has two numbers (R12). -/
theorem opcode_unique {c : Config} (h : c.OperationsDistinct) {b b' : Byte} {o : Operation}
    (hb : (b, o) ∈ c.opcodeMap) (hb' : (b', o) ∈ c.opcodeMap) : b = b' :=
  congrArg Prod.fst (List.inj_on_of_nodup_map h hb hb' rfl)

/-- The opcodes the default map does not list (R86, R88). -/
theorem cvm32_operationAt_eq_none_iff (b : Byte) : Config.cvm32.operationAt b = none ↔
    let n := b.toNat
    n = 0x07 ∨ (0x0A ≤ n ∧ n ≤ 0x0F) ∨ (0x1B ≤ n ∧ n ≤ 0x1F) ∨ (0x26 ≤ n ∧ n ≤ 0x2F) ∨
      (0x33 ≤ n ∧ n ≤ 0x4F) ∨ n = 0x52 ∨ n = 0x53 ∨ 0x56 ≤ n := by
  rw [Config.operationAt, List.lookup_eq_none_iff]
  simp only [Config.cvm32, Config.coreRows, Config.ioRows, Config.compareRows,
    Config.jumpAndMemoryRows, List.forall_mem_append, List.forall_mem_cons, List.not_mem_nil,
    false_implies, implies_true, and_true, bne_iff_ne, ne_eq, BitVec.toNat_eq, BitVec.reduceToNat]
  omega

/-- Settles O4: a word is rejected for an opcode the default map does not list, and for nothing
else. -/
theorem invalidOpcodesAreTheListedOnes : Obligations.InvalidOpcodesAreTheListedOnes := fun _ =>
  ⟨decode_eq_invalidOpcode_iff.trans (cvm32_operationAt_eq_none_iff _), exists_decode_eq_ok_iff⟩

/-! ### The canonical word -/

/-- The canonical word carries the operation's number, the canonical flags and the immediate
(R94). -/
theorem unpack_of_encode {c : Config} {i : Instr} {w : Word} (h : encode c i = some w) :
    ((unpack w).opcode, i.operation) ∈ c.opcodeMap ∧
      (unpack w).flags = c.canonicalFlags i.isSigned ∧ (unpack w).imm = i.immediate := by
  obtain ⟨b, hb, rfl⟩ := Option.map_eq_some_iff.mp h
  rw [unpack_pack]
  exact ⟨mem_of_opcodeOf hb, rfl, rfl⟩

/-- Every instruction has a canonical word under a complete map (R12, R94). -/
theorem exists_encode_eq_some {c : Config} (h : c.OpcodesComplete) (i : Instr) :
    ∃ w, encode c i = some w := by
  obtain ⟨b, hb⟩ := opcodeOf_some h i.operation
  exact ⟨_, Option.map_eq_some_iff.mpr ⟨b, hb, rfl⟩⟩

/-- The canonical flags are `FLAG_SIGNED` alone, for a signed comparison (R83, R94). -/
theorem canonicalFlags_getLsbD (c : Config) (s : Bool) (k : Nat) :
    (c.canonicalFlags s).getLsbD k = (s && decide (k = c.flagSigned.val)) := by
  cases s with
  | false => simp [Config.canonicalFlags]
  | true =>
    simp only [Config.canonicalFlags, if_true, ← BitVec.twoPow_eq, BitVec.getLsbD_twoPow,
      c.flagSigned.isLt, decide_true, Bool.true_and]
    exact decide_eq_decide.mpr eq_comm

/-- Settles O1: the canonical word carries what the decoder reads, the number, the flag and the
immediate. -/
theorem decodeOfEncodeIsIdentity : Obligations.DecodeOfEncodeIsIdentity := by
  intro c i hc
  obtain ⟨w, hw⟩ := exists_encode_eq_some hc.opcodesComplete i
  obtain ⟨hrow, hflags, himm⟩ := unpack_of_encode hw
  refine ⟨w, hw, decode_eq_ok_iff.mpr
    ⟨(operationAt_eq_some_iff hc.opcodesDistinct).mpr hrow, fun _ => ?_, fun _ => himm⟩⟩
  rw [hflags, isSigned_canonicalFlags]

/-- Settles O2: the operation's number is the only opcode that decodes to it, so the words that
decode to the instruction have the canonical word's opcode and the fields its form reads. -/
theorem encodeIsCanonical : Obligations.EncodeIsCanonical := by
  intro c i w hc hw
  obtain ⟨hrow, hflags, himm⟩ := unpack_of_encode hw
  have hopcode : ∀ b, c.operationAt b = some i.operation ↔ b = (unpack w).opcode := fun b =>
    (operationAt_eq_some_iff hc.opcodesDistinct).trans
      ⟨fun hb => opcode_unique hc.operationsDistinct hb hrow, fun hb => hb ▸ hrow⟩
  refine ⟨hrow, fun k => ?_, himm, fun v => ?_⟩
  · rw [hflags, canonicalFlags_getLsbD]
  · rw [decode_eq_ok_iff, hopcode]

/-! ### The packed image -/

/-- The fields tile the word (R80, R91). -/
theorem pack_unpack (w : Word) : pack (unpack w) = w := by
  simp only [pack, unpack]
  rw [BitVec.extractLsb'_append_extractLsb'_eq_extractLsb' (by rfl),
    BitVec.extractLsb'_append_extractLsb'_eq_extractLsb' (by rfl)]
  exact BitVec.extractLsb'_eq_self

/-- As many words as an image was packed from read back, with the bytes after it (R57, R91). -/
theorem unpackProgram_packProgram (e : Endian) (ws : List Word) (rest : List Byte) :
    unpackProgram e ws.length (packProgram e ws ++ rest) = .ok (ws, rest) := by
  induction ws with
  | nil => rfl
  | cons w ws ih =>
    simp only [packProgram, List.length_cons, unpackProgram, List.append_assoc,
      unpackBytes_packBytes, ih]

/-- Settles O3: the fields tile the word, and the image by induction on its words. -/
theorem packedImageRoundTrips : Obligations.PackedImageRoundTrips :=
  ⟨unpack_pack, pack_unpack, unpackProgram_packProgram⟩

end Sys2Proof

namespace Sys2Proof.Machine

/-! ### No instruction and no step is without a next state -/

theorem step_next (s : State) : ∃ t, step s = .next t := by
  cases hl : s.progLoaded with
  | false => exact ⟨_, step_empty hl⟩
  | true =>
    cases hh : s.halted with
    | true => exact ⟨_, step_halted hl hh⟩
    | false =>
      obtain ⟨t, ht⟩ := cycle_next s
      exact ⟨t.afterCycle, by rw [step_ready hl hh, ht, onNext_next]⟩

/-- Settles O11: every rule ends completed or failed, and so does a step in each run state. -/
theorem everyStepHasANextState : Obligations.EveryStepHasANextState :=
  ⟨exec_next, step_next⟩

end Sys2Proof.Machine
end

section
/-! SUPPORT. The first dispatch groups (40_stack_halt.md): HALT, PUSH and POP, each with its
opcode, its canonical word and its whole effect; and how a rule ends when the stack check it
begins with does not pass. -/

namespace Sys2Proof.Machine

open Sys2Proof.Slice0

/-! ### A stack check that does not pass -/

/-- A rule that begins with `need(n)` fails precisely below `n` words (R200, R201). -/
theorem settle_need_of_lt {n : Nat} {s : State} (h : s.sp < n) (k : Result) :
    settle (need n s k) = .next (failedState s .stackUnderflow s.ports) :=
  settle_eq_next.mpr (by rw [need_of_lt h, finish_raised, fail_eq_failedState])

/-- A rule that begins with `room(n)` fails precisely where `n` words do not fit (R200, R201). -/
theorem settle_room_of_lt {n : Nat} {s : State} (h : s.cfg.stackCapacity < s.sp + n) (k : Result) :
    settle (room n s k) = .next (failedState s .stackOverflow s.ports) :=
  settle_eq_next.mpr (by rw [room_of_lt h, finish_raised, fail_eq_failedState])

/-! ### HALT, PUSH and POP -/

/-- The machine halted, and nothing else. -/
theorem completes_halt (s : State) :
    Completes s s.halt.complete { pc := s.pc, halts := true, ports := s.ports } := by
  constructor <;> simp

/-- Settles O14: the rule has no check, so it ends completed in every state. -/
theorem haltStopsTheMachine : Obligations.HaltStopsTheMachine :=
  ⟨fun _ _ => rfl, rfl, fun s => ⟨_, rfl, completes_halt s⟩⟩

/-- Settles O15, by whether the stack has room for one word; the literal is a push over no
dropped word. -/
theorem pushPutsTheLiteralOnTop : Obligations.PushPutsTheLiteralOnTop := by
  refine ⟨fun _ _ => rfl, fun _ => rfl, fun s n => ⟨fun hfull => ?_, fun hroom => ?_⟩⟩
  · exact settle_room_of_lt hfull _
  · rw [← zext32_eq_ofNat]
    exact ⟨_, exec_push_of_room n hroom, completes_push s 0 (zext32 n)⟩

/-- Settles O16, by whether the stack holds a word. -/
theorem popDiscardsTheTop : Obligations.PopDiscardsTheTop := by
  refine ⟨fun _ _ => rfl, rfl, fun s => ⟨fun hempty => ?_, fun hword => ?_⟩⟩
  · exact settle_need_of_lt hempty _
  · exact ⟨_, exec_pop_of_pos hword, completes_drop s 1⟩

end Sys2Proof.Machine
end

section
/-! SUPPORT. The arithmetic instructions (41_arithmetic.md): how any rule of the shape of R110 ends,
the wrapped results under both readings of the operands (R116), and the quotient's magnitude and
sign (R115). -/

namespace Sys2Proof.Machine

open Sys2Proof.Slice0

/-! ### The shape of R110 -/

/-- With two words on the stack, a binary rule replaces them by its result (R110). -/
theorem settle_binary_of_le (f : Word → Word → Word) {s : State} (h : 2 ≤ s.sp) :
    settle (binary f s) = .next ((s.drop 2).push (f (s.peek 1) (s.peek 0))).complete :=
  settle_eq_next.mpr (by rw [binary, need_of_le h, finish_done])

section
variable {i : Instr} {f : Word → Word → Word} {s : State} (hi : exec i s = settle (binary f s))
include hi

theorem failsWith_of_binary (h : s.sp < 2) : FailsWith i s .stackUnderflow :=
  hi.trans (settle_need_of_lt h _)

theorem completesWith_of_binary (h : 2 ≤ s.sp) : CompletesWith i s
    { pc := s.pc, pops := 2, pushed := some (f (s.peek 1) (s.peek 0)), ports := s.ports } :=
  ⟨_, hi.trans (settle_binary_of_le f h), completes_push s 2 _⟩

/-- What a binary rule that completed left on top, and that it left no error. -/
theorem peek_zero_of_binary {t : State} (h : 2 ≤ s.sp) (ht : exec i s = .next t) :
    t.peek 0 = f (s.peek 1) (s.peek 0) ∧ t.lastError = .none := by
  rw [hi, settle_binary_of_le f h] at ht
  cases ht
  exact ⟨peek_push_zero _ _, rfl⟩

end

/-! ### ADD, SUB and MUL -/

/-- Settles O18: the three are binary rules, and the wrapped integer results are the word
operations. -/
theorem addSubMulPushTheWrappedResult : Obligations.AddSubMulPushTheWrappedResult := by
  refine ⟨⟨fun _ _ => rfl, fun _ _ => rfl, fun _ _ => rfl⟩, ⟨rfl, rfl, rfl⟩, fun s i r hir => ?_⟩
  simp only [List.mem_cons, Prod.mk.injEq, List.not_mem_nil, or_false] at hir
  obtain ⟨rfl, rfl⟩ | ⟨rfl, rfl⟩ | ⟨rfl, rfl⟩ := hir
  · rw [← addWords_eq]
    exact ⟨failsWith_of_binary rfl, completesWith_of_binary rfl⟩
  · rw [← subWords_eq]
    exact ⟨failsWith_of_binary rfl, completesWith_of_binary rfl⟩
  · rw [← mulWords_eq]
    exact ⟨failsWith_of_binary rfl, completesWith_of_binary rfl⟩

/-- Wrapping a word read unsigned gives the word back. -/
theorem ofInt_toNat {n : Nat} (w : BitVec n) : BitVec.ofInt n w.toNat = w := by
  rw [BitVec.ofInt_natCast, BitVec.ofNat_toNat, BitVec.setWidth_eq]

theorem ofInt_sub {n : Nat} (x y : Int) :
    BitVec.ofInt n (x - y) = BitVec.ofInt n x - BitVec.ofInt n y := by
  rw [Int.sub_eq_add_neg, BitVec.ofInt_add, BitVec.ofInt_neg, BitVec.sub_eq_add_neg]

theorem addWords_eq_unsigned (a b : Word) : addWords a b = BitVec.ofInt 32 (a.toNat + b.toNat) := by
  rw [addWords_eq, BitVec.ofInt_add, ofInt_toNat, ofInt_toNat]

theorem subWords_eq_unsigned (a b : Word) : subWords a b = BitVec.ofInt 32 (a.toNat - b.toNat) := by
  rw [subWords_eq, ofInt_sub, ofInt_toNat, ofInt_toNat]

theorem mulWords_eq_unsigned (a b : Word) : mulWords a b = BitVec.ofInt 32 (a.toNat * b.toNat) := by
  rw [mulWords_eq, BitVec.ofInt_mul, ofInt_toNat, ofInt_toNat]

/-- Settles O21: the rules compute on the signed readings, and the unsigned readings wrap to the
same word. -/
theorem arithmeticWrapsAlikeForBothReadings : Obligations.ArithmeticWrapsAlikeForBothReadings := by
  intro i f s t hif hsp ht
  simp only [List.mem_cons, Prod.mk.injEq, List.not_mem_nil, or_false] at hif
  obtain ⟨rfl, rfl⟩ | ⟨rfl, rfl⟩ | ⟨rfl, rfl⟩ := hif
  · obtain ⟨htop, herr⟩ := peek_zero_of_binary (f := addWords) rfl hsp ht
    exact ⟨htop, htop.trans (addWords_eq_unsigned _ _), herr⟩
  · obtain ⟨htop, herr⟩ := peek_zero_of_binary (f := subWords) rfl hsp ht
    exact ⟨htop, htop.trans (subWords_eq_unsigned _ _), herr⟩
  · obtain ⟨htop, herr⟩ := peek_zero_of_binary (f := mulWords) rfl hsp ht
    exact ⟨htop, htop.trans (mulWords_eq_unsigned _ _), herr⟩

/-! ### DIV -/

/-- The depth is tested before the divisor (R202), so whatever the divisor. -/
theorem failsWith_div_of_lt {s : State} (h : s.sp < 2) : FailsWith .div s .stackUnderflow :=
  settle_need_of_lt h _

theorem failsWith_div_of_zero {s : State} (h : 2 ≤ s.sp) (hb : s.peek 0 = 0) :
    FailsWith .div s .divisionByZero :=
  settle_eq_next.mpr (by
    rw [need_of_le h, hb, bne_self_eq_false, check_false, finish_raised, fail_eq_failedState])

/-- Past its two checks DIV is a binary rule. -/
theorem exec_div_of_ne_zero {s : State} (h : 2 ≤ s.sp) (hb : s.peek 0 ≠ 0) :
    exec .div s = settle (binary divWords s) := by
  rw [exec, execDiv, need_of_le h, bne_iff_ne.mpr hb, check_true]

/-- Settles O19, by the two checks in their order. -/
theorem divPushesTheTruncatedQuotient : Obligations.DivPushesTheTruncatedQuotient :=
  ⟨fun _ _ => rfl, rfl, fun _ => ⟨failsWith_div_of_lt, failsWith_div_of_zero,
    fun hsp hb => completesWith_of_binary (exec_div_of_ne_zero hsp hb) hsp⟩⟩

/-- DIV's result is the signed division of words. -/
theorem divWords_eq_sdiv (a b : Word) : divWords a b = a.sdiv b :=
  BitVec.eq_of_toInt_eq (by rw [divWords, wrap32, BitVec.toInt_ofInt, BitVec.toInt_sdiv])

/-- The one quotient of two words that no word holds, wrapped (R115, D7). -/
theorem divWords_overflow : divWords 0x80000000 0xFFFFFFFF = 0x80000000 := by decide

/-- Every other quotient is exact (R115). -/
theorem toInt_divWords {a b : Word} (h : ¬ (a = 0x80000000 ∧ b = 0xFFFFFFFF)) :
    (divWords a b).toInt = a.toInt.tdiv b.toInt := by
  rw [divWords_eq_sdiv, BitVec.toInt_sdiv_of_ne_or_ne]
  exact not_and_or.mp h

/-- A truncated quotient that is not zero has the product of the signs. -/
theorem sign_tdiv_of_ne_zero {a b : Int} (h : a.tdiv b ≠ 0) :
    (a.tdiv b).sign = a.sign * b.sign := by
  have hsign := Int.sign_tdiv a b
  split at hsign
  · exact absurd (Int.sign_eq_zero_iff_zero.mp hsign) h
  · exact hsign

/-- Settles O20: a quotient that fits is the truncated one, whose magnitude and sign are those of
R115; the other is `divWords_overflow`. -/
theorem quotientHasMagnitudeAndSign : Obligations.QuotientHasMagnitudeAndSign := by
  intro s t hsp hb ht
  obtain ⟨htop, -⟩ := peek_zero_of_binary (exec_div_of_ne_zero hsp hb) hsp ht
  rw [htop]
  split
  · next hover =>
    obtain ⟨ha, hb'⟩ := hover
    rw [ha, hb', divWords_overflow]
  · next hfits =>
    rw [toInt_divWords hfits]
    exact ⟨Int.natAbs_tdiv _ _, sign_tdiv_of_ne_zero⟩

end Sys2Proof.Machine
end

section
/-! SUPPORT. The comparisons (42_comparison.md): when a comparison's opcode decodes to a form, how
any rule of the shape of R120 ends, and when the two forms of a relation differ. -/

namespace Sys2Proof.Machine

open Sys2Proof.Slice0

/-! ### Selection by the flag -/

/-- A comparison's number decodes to one of its two forms exactly when `flags[0]` is that form's
bit: the form reads the flag and writes no number (R83 to R85, R120). -/
theorem decodesWithFlag_of_comparison {b : Byte} {i : Instr}
    (hop : Config.cvm32.operationAt b = some i.operation)
    (hcmp : i.operation ∈ [.eq, .ne, .lt, .gt, .le, .ge])
    (hnum : i.operation.takesNumber = false) : DecodesWithFlag b i.isSigned i := by
  intro flags imm
  rw [decodeFields_of_some hop, Except.ok.injEq]
  conv_lhs => rhs; rw [← formOf_parts i]
  rw [formOf_eq_formOf_iff, hnum]
  exact ⟨fun h => h.1 hcmp, fun h => ⟨fun _ => h, nofun⟩⟩

/-! ### The shape of R120 -/

/-- A comparison is a binary rule whose result is the truth word of its relation. -/
theorem failsOrCompletes_of_compareWords {i : Instr} {rel : Word → Word → Bool} {s : State}
    {t : Bool} (hi : exec i s = settle (compareWords rel s))
    (ht : rel (s.peek 1) (s.peek 0) = t) :
    (s.sp < 2 → FailsWith i s .stackUnderflow) ∧
      (2 ≤ s.sp → CompletesWith i s (truthEffect s t)) := by
  subst ht
  exact ⟨failsWith_of_binary hi, completesWith_of_binary hi⟩

/-- Settles O22: the six rules have the shape of R120, with the relation of the operands read
unsigned. -/
theorem unsignedComparisonsPushTheTruth : Obligations.UnsignedComparisonsPushTheTruth := by
  refine ⟨⟨?_, ?_, ?_, ?_, ?_, ?_⟩, ⟨rfl, rfl, rfl, rfl, rfl, rfl⟩, fun s i t hit => ?rule⟩
  case rule =>
    simp only [List.mem_cons, Prod.mk.injEq, List.not_mem_nil, or_false] at hit
    obtain ⟨rfl, rfl⟩ | ⟨rfl, rfl⟩ | ⟨rfl, rfl⟩ | ⟨rfl, rfl⟩ | ⟨rfl, rfl⟩ | ⟨rfl, rfl⟩ := hit
    · exact failsOrCompletes_of_compareWords (rel := eqUnsigned) rfl rfl
    · exact failsOrCompletes_of_compareWords (rel := neUnsigned) rfl decide_not.symm
    · exact failsOrCompletes_of_compareWords (rel := ltUnsigned) rfl rfl
    · exact failsOrCompletes_of_compareWords (rel := gtUnsigned) rfl rfl
    · exact failsOrCompletes_of_compareWords (rel := leUnsigned) rfl rfl
    · exact failsOrCompletes_of_compareWords (rel := geUnsigned) rfl rfl
  all_goals exact decodesWithFlag_of_comparison rfl (by decide) rfl

/-- Settles O23: the six rules have the shape of R120, with the relation of the operands read
signed. -/
theorem signedComparisonsPushTheTruth : Obligations.SignedComparisonsPushTheTruth := by
  refine ⟨⟨?_, ?_, ?_, ?_, ?_, ?_⟩, ⟨rfl, rfl, rfl, rfl, rfl, rfl⟩, fun s i t hit => ?rule⟩
  case rule =>
    simp only [List.mem_cons, Prod.mk.injEq, List.not_mem_nil, or_false] at hit
    obtain ⟨rfl, rfl⟩ | ⟨rfl, rfl⟩ | ⟨rfl, rfl⟩ | ⟨rfl, rfl⟩ | ⟨rfl, rfl⟩ | ⟨rfl, rfl⟩ := hit
    · exact failsOrCompletes_of_compareWords (rel := eqSigned) rfl rfl
    · exact failsOrCompletes_of_compareWords (rel := neSigned) rfl decide_not.symm
    · exact failsOrCompletes_of_compareWords (rel := ltSigned) rfl rfl
    · exact failsOrCompletes_of_compareWords (rel := gtSigned) rfl rfl
    · exact failsOrCompletes_of_compareWords (rel := leSigned) rfl rfl
    · exact failsOrCompletes_of_compareWords (rel := geSigned) rfl rfl
  all_goals exact decodesWithFlag_of_comparison rfl (by decide) rfl

/-! ### The two forms of a relation (R120) -/

theorem eqSigned_eq_eqUnsigned (a b : Word) : eqSigned a b = eqUnsigned a b :=
  decide_eq_decide.mpr (BitVec.toInt_inj.trans BitVec.toNat_inj.symm)

theorem neSigned_eq_neUnsigned (a b : Word) : neSigned a b = neUnsigned a b :=
  congrArg not (eqSigned_eq_eqUnsigned a b)

/-- Two words order alike under both readings unless their sign bits differ. -/
theorem ltSigned_eq_xor (a b : Word) : ltSigned a b = ((a.msb != b.msb) ^^ ltUnsigned a b) :=
  BitVec.slt_eq_ult

theorem leSigned_eq_xor (a b : Word) : leSigned a b = ((a.msb != b.msb) ^^ leUnsigned a b) :=
  BitVec.sle_eq_ule

theorem gtSigned_eq_xor (a b : Word) : gtSigned a b = ((a.msb != b.msb) ^^ gtUnsigned a b) :=
  bne_comm (a := b.msb) ▸ ltSigned_eq_xor b a

theorem geSigned_eq_xor (a b : Word) : geSigned a b = ((a.msb != b.msb) ^^ geUnsigned a b) :=
  bne_comm (a := b.msb) ▸ leSigned_eq_xor b a

theorem truthWord_inj {t u : Bool} : truthWord t = truthWord u ↔ t = u := by
  revert t u; decide

theorem ne_xor_self_iff {d x : Bool} : x ≠ (d ^^ x) ↔ d = true := by
  revert d x; decide

section
variable {i j : Instr} {rel rel' : Word → Word → Bool} {s t u : State}
  (hi : exec i s = settle (compareWords rel s)) (hj : exec j s = settle (compareWords rel' s))
  (hsp : 2 ≤ s.sp) (ht : exec i s = .next t) (hu : exec j s = .next u)
include hi hj hsp ht hu

/-- Two comparisons of the same operands push the same word exactly when their relations agree. -/
theorem peek_zero_eq_iff_of_compareWords : t.peek 0 = u.peek 0 ↔
    rel (s.peek 1) (s.peek 0) = rel' (s.peek 1) (s.peek 0) := by
  obtain ⟨htop, -⟩ := peek_zero_of_binary hi hsp ht
  obtain ⟨htop', -⟩ := peek_zero_of_binary hj hsp hu
  rw [htop, htop', truthWord_inj]

/-- The words pushed differ as the relations do: by the sign bits for an order relation, else by
nothing. -/
theorem peek_zero_ne_iff_of_forms {ordered : Bool}
    (h : ∀ a b, rel' a b = ((ordered && (a.msb != b.msb)) ^^ rel a b)) :
    t.peek 0 ≠ u.peek 0 ↔ ordered = true ∧ (s.peek 1).msb ≠ (s.peek 0).msb := by
  rw [ne_eq, peek_zero_eq_iff_of_compareWords hi hj hsp ht hu, h, ← ne_eq, ne_xor_self_iff,
    Bool.and_eq_true, bne_iff_ne]

end

/-- Settles O24: both forms push the truth word of a relation of the same operands, and the signed
relation is the unsigned one, for the order relations turned over where the sign bits differ. -/
theorem signedFormsDifferOnSignBits : Obligations.SignedFormsDifferOnSignBits := by
  intro i j ordered s t u hij hsp ht hu
  simp only [List.mem_cons, Prod.mk.injEq, List.not_mem_nil, or_false] at hij
  obtain ⟨rfl, rfl, rfl⟩ | ⟨rfl, rfl, rfl⟩ | ⟨rfl, rfl, rfl⟩ | ⟨rfl, rfl, rfl⟩ | ⟨rfl, rfl, rfl⟩ |
    ⟨rfl, rfl, rfl⟩ := hij
  · exact peek_zero_ne_iff_of_forms rfl rfl hsp ht hu ltSigned_eq_xor
  · exact peek_zero_ne_iff_of_forms rfl rfl hsp ht hu gtSigned_eq_xor
  · exact peek_zero_ne_iff_of_forms rfl rfl hsp ht hu leSigned_eq_xor
  · exact peek_zero_ne_iff_of_forms rfl rfl hsp ht hu geSigned_eq_xor
  · exact peek_zero_ne_iff_of_forms rfl rfl hsp ht hu fun a b =>
      (eqSigned_eq_eqUnsigned a b).trans (Bool.false_xor _).symm
  · exact peek_zero_ne_iff_of_forms rfl rfl hsp ht hu fun a b =>
      (neSigned_eq_neUnsigned a b).trans (Bool.false_xor _).symm

end Sys2Proof.Machine
end

section
/-! SUPPORT. The transfers (43_control_flow.md): how a rule ends at its target check, how each
transfer ends and with what effect, the return from a CALL (R147), and what a step that completes
a transfer sets (R148). -/

namespace Sys2Proof.Machine

open Sys2Proof.Slice0

/-! ### The target check (R140) -/

theorem targetOk_zext32_of_lt {s : State} {n : Imm} (h : n.toNat < s.prog.length) :
    targetOk s (zext32 n) = true :=
  (targetOk_zext32 s n).trans (decide_eq_true h)

theorem targetOk_zext32_of_le {s : State} {n : Imm} (h : s.prog.length ≤ n.toNat) :
    targetOk s (zext32 n) = false :=
  (targetOk_zext32 s n).trans (decide_eq_false h.not_gt)

theorem targetOk_of_le {s : State} {t : Word} (h : s.prog.length ≤ t.toNat) :
    targetOk s t = false :=
  decide_eq_false h.not_gt

/-- A check that does not pass fails precisely (R200, R201). -/
theorem settle_check_of_false {ok : Bool} (h : ok = false) (e : ErrorCode) (s : State)
    (k : Result) : settle (check ok e s k) = .next (failedState s e s.ports) := by
  subst h; rfl

/-! ### JMP -/

theorem exec_jmp_of_lt {s : State} {n : Imm} (h : n.toNat < s.prog.length) :
    exec (.jmp n) s = .next (s.jump (zext32 n)).complete :=
  settle_eq_next.mpr (by rw [targetOk_zext32_of_lt h, check_true, finish_done])

/-- Settles O25, by whether the target is below `prog_len`; a JMP drops no word. -/
theorem jmpSetsPcToAValidTarget : Obligations.JmpSetsPcToAValidTarget := by
  refine ⟨fun _ _ => rfl, fun _ => rfl, fun s n => ⟨fun hout => ?_, fun hin => ?_⟩⟩
  · exact settle_check_of_false (targetOk_zext32_of_le hout) _ _ _
  · rw [← zext32_eq_ofNat]
    exact ⟨_, exec_jmp_of_lt hin, completes_drop_jump s 0 (zext32 n)⟩

/-! ### JMP_TRUE and JMP_FALSE -/

section
variable {i : Instr} {jumps : Word → Bool} {n : Imm} {s : State}
  (hi : exec i s = settle (conditional jumps (zext32 n) s)) (hsp : 1 ≤ s.sp)
include hi hsp

/-- A jump not taken removes the condition, whatever its target (R142, R143, D11). -/
theorem exec_of_conditional_not_taken (h : jumps (s.peek 0) = false) :
    exec i s = .next (s.drop 1).complete :=
  hi.trans (settle_eq_next.mpr (by
    rw [conditional, need_of_le hsp, h, Bool.not_false, Bool.true_or, check_true, finish_done,
      if_neg Bool.false_ne_true]))

/-- A jump taken is the check of its target, then the jump (R142, R143). -/
theorem exec_of_conditional_taken (h : jumps (s.peek 0) = true) :
    exec i s = settle (check (targetOk s (zext32 n)) .invalidJump s
      (.done ((s.drop 1).jump (zext32 n)))) := by
  rw [hi, conditional, need_of_le hsp, h, Bool.not_true, Bool.false_or, if_pos rfl]

end

/-- How a conditional jump ends: by the depth, then whether it is taken, and only then its
target. -/
theorem failsOrCompletes_of_conditional {i : Instr} {jumps : Word → Bool} {n : Imm} {s : State}
    {taken : Prop} (hi : exec i s = settle (conditional jumps (zext32 n) s))
    (ht : taken ↔ jumps (s.peek 0) = true) :
    (s.sp < 1 → FailsWith i s .stackUnderflow) ∧
    (1 ≤ s.sp → taken → s.prog.length ≤ n.toNat → FailsWith i s .invalidJump) ∧
    (1 ≤ s.sp → taken → n.toNat < s.prog.length →
      CompletesWith i s { pc := BitVec.ofNat 32 n.toNat, pops := 1, ports := s.ports }) ∧
    (1 ≤ s.sp → ¬ taken → CompletesWith i s { pc := s.pc, pops := 1, ports := s.ports }) := by
  rw [← zext32_eq_ofNat, ht]
  refine ⟨fun hempty => ?_, fun hsp htaken hout => ?_, fun hsp htaken hin => ?_,
    fun hsp hnot => ?_⟩
  · exact hi.trans (settle_need_of_lt hempty _)
  · exact (exec_of_conditional_taken hi hsp htaken).trans
      (settle_check_of_false (targetOk_zext32_of_le hout) _ _ _)
  · refine ⟨_, ?_, completes_drop_jump s 1 (zext32 n)⟩
    rw [exec_of_conditional_taken hi hsp htaken, targetOk_zext32_of_lt hin, check_true,
      settle, finish_done]
  · exact ⟨_, exec_of_conditional_not_taken hi hsp (Bool.eq_false_of_not_eq_true hnot),
      completes_drop s 1⟩

/-- Settles O26: both rules have the shape of `conditional`, one taken on any word but zero, the
other on zero only. -/
theorem conditionalJumpsConsumeTheCondition : Obligations.ConditionalJumpsConsumeTheCondition := by
  refine ⟨⟨fun _ _ => rfl, fun _ _ => rfl⟩, ⟨fun _ => rfl, fun _ => rfl⟩, fun s n i taken h => ?_⟩
  obtain ⟨rfl, ht⟩ | ⟨rfl, ht⟩ := h
  · exact failsOrCompletes_of_conditional (jumps := isNonZero) rfl (ht.trans bne_iff_ne.symm)
  · exact failsOrCompletes_of_conditional (jumps := isZero) rfl (ht.trans beq_iff_eq.symm)

/-! ### CALL and RET -/

/-- One word pushed, the program counter set. -/
theorem completes_push_jump (s : State) (w t : Word) :
    Completes s ((s.push w).jump t).complete { pc := t, pushed := some w, ports := s.ports } :=
  { completes_push s 0 w with pc := rfl }

theorem exec_call_of_room_of_lt {s : State} {n : Imm} (hroom : s.sp + 1 ≤ s.cfg.stackCapacity)
    (h : n.toNat < s.prog.length) :
    exec (.call n) s = .next ((s.push s.pc).jump (zext32 n)).complete :=
  settle_eq_next.mpr (by
    rw [room_of_le hroom, targetOk_zext32_of_lt h, check_true, finish_done])

/-- Room is tested before the target (R202), so a full stack fails whatever the target. -/
theorem failsWith_call_of_full {s : State} (n : Imm) (h : s.cfg.stackCapacity < s.sp + 1) :
    FailsWith (.call n) s .stackOverflow :=
  settle_room_of_lt h _

theorem failsWith_call_of_le {s : State} {n : Imm} (hroom : s.sp + 1 ≤ s.cfg.stackCapacity)
    (h : s.prog.length ≤ n.toNat) : FailsWith (.call n) s .invalidJump := by
  rw [FailsWith, exec, execCall, room_of_le hroom]
  exact settle_check_of_false (targetOk_zext32_of_le h) _ _ _

/-- Settles O27, by the two checks in their order. -/
theorem callPushesTheSuccessor : Obligations.CallPushesTheSuccessor := by
  refine ⟨fun _ _ => rfl, fun _ => rfl, fun s n =>
    ⟨failsWith_call_of_full n, failsWith_call_of_le, fun hroom hin => ?_⟩⟩
  rw [← zext32_eq_ofNat]
  exact ⟨_, exec_call_of_room_of_lt hroom hin, completes_push_jump s s.pc (zext32 n)⟩

theorem exec_ret_of_lt {s : State} (hsp : 1 ≤ s.sp) (h : (s.peek 0).toNat < s.prog.length) :
    exec .ret s = .next ((s.drop 1).jump (s.peek 0)).complete :=
  settle_eq_next.mpr (by rw [need_of_le hsp, targetOk_iff.mpr h, check_true, finish_done])

theorem failsWith_ret_of_le {s : State} (hsp : 1 ≤ s.sp) (h : s.prog.length ≤ (s.peek 0).toNat) :
    FailsWith .ret s .invalidJump := by
  rw [FailsWith, exec, execRet, need_of_le hsp]
  exact settle_check_of_false (targetOk_of_le h) _ _ _

/-- Settles O28, by the two checks in their order. -/
theorem retJumpsToThePoppedWord : Obligations.RetJumpsToThePoppedWord :=
  ⟨fun _ _ => rfl, rfl, fun s => ⟨fun hempty => settle_need_of_lt hempty _, failsWith_ret_of_le,
    fun hsp hin => ⟨_, exec_ret_of_lt hsp hin, completes_drop_jump s 1 (s.peek 0)⟩⟩⟩

/-- Settles O29: the word RET finds on top is the one the CALL wrote at the caller's depth, the
successor index, which is a valid target. -/
theorem callThenRetResumesAtTheSuccessor : Obligations.CallThenRetResumesAtTheSuccessor := by
  intro s t v n hroom hin hpc hcall hsp hprog hmem
  rw [exec_call_of_room_of_lt hroom hin] at hcall
  cases hcall
  have hdepth : v.sp = s.sp + 1 := hsp
  have htop : v.peek 0 = s.pc :=
    calc v.peek 0
      _ = v.mem.read (.stack s.sp) := by rw [State.peek, hdepth]; rfl
      _ = (s.push s.pc).mem.read (.stack s.sp) := hmem
      _ = s.pc := peek_push_zero s s.pc
  have hvalid : (v.peek 0).toNat < v.prog.length := by rw [htop, hprog]; exact hpc
  refine ⟨_, exec_ret_of_lt (by omega) hvalid, htop, ?_, rfl, rfl⟩
  exact Nat.sub_eq_of_eq_add hdepth

/-! ### A step that completes a transfer (R148) -/

/-- The end of a move leaves all that a transfer sets. -/
theorem afterCycle_keeps (s : State) :
    s.afterCycle.lastError = s.lastError ∧ s.afterCycle.pc = s.pc ∧ s.afterCycle.sp = s.sp ∧
      s.afterCycle.mem = s.mem := by
  unfold State.afterCycle
  split <;> exact ⟨rfl, rfl, rfl, rfl⟩

/-- A step that completes an instruction leaves `pc` and the stack as the rule left them at the
advanced state. -/
theorem exec_of_moves {s t : State} {i : Instr} (h : Moves s i t) :
    ∃ u, exec i s.advance = .next u ∧ u.lastError = .none ∧
      t.pc = u.pc ∧ t.sp = u.sp ∧ t.mem = u.mem := by
  obtain ⟨hl, hh, ⟨w, hf, hd⟩, hstep, herr⟩ := h
  obtain ⟨u, hu, hstep'⟩ := stepRunsTheDecodedInstruction s w i hl hh hf hd
  obtain rfl := Host.Outcome.next.inj (hstep.symm.trans hstep')
  obtain ⟨herr', hpc, hsp, hmem⟩ := afterCycle_keeps (u.emit (instructionEvent s.pc w))
  exact ⟨u, hu, herr'.symm.trans herr, hpc, hsp, hmem⟩

theorem eq_ret_of_operation {i : Instr} (h : i.operation = .ret) : i = .ret := by
  rw [← formOf_parts i, h]; rfl

/-- The target of a completed transfer is its immediate, for every one but RET. -/
theorem pc_of_transfers {i : Instr} {s t : State} (h : exec i s = .next t)
    (herr : t.lastError = .none) (htr : Transfers i s) (hne : i ≠ .ret) :
    t.pc = zext32 i.immediate := by
  obtain ⟨himm, -⟩ := exec_transfer h herr
  refine himm (htr.imp_left fun hmem => ?_)
  have hret : i.operation ≠ .ret := fun hop => hne (eq_ret_of_operation hop)
  simpa [hret] using hmem

/-- Where a step that completes a transfer goes, and what a CALL leaves on top: the advanced state
has the stack of `s` and the successor index in `pc`. -/
theorem transfer_of_moves {s t : State} {i : Instr} (h : Moves s i t) :
    (Transfers i s → i ≠ .ret → t.pc = zext32 i.immediate) ∧
    (i = .ret → t.pc = s.peek 0) ∧ (i.operation = .call → t.peek 0 = s.pc + 1) := by
  obtain ⟨u, hu, herr, hpc, hsp, hmem⟩ := exec_of_moves h
  have hpeek : t.peek 0 = u.peek 0 := by rw [State.peek, hsp, hmem]; rfl
  rw [hpc, hpeek]
  exact ⟨pc_of_transfers (s := s.advance) hu herr, (exec_transfer hu herr).2⟩

/-- Settles O31: the step keeps the program, so the next fetch reads it at the new `pc`; and the
target of a taken transfer but RET is its immediate alone. -/
theorem transfersTakeEffectAtTheNextFetch : Obligations.TransfersTakeEffectAtTheNextFetch := by
  refine ⟨fun s t i h _ => ?_, fun s t s' t' i h h' htr htr' hne => ?_⟩
  · obtain ⟨-, hret, hcall⟩ := transfer_of_moves h
    obtain ⟨-, -, -, hstep, -⟩ := h
    obtain ⟨hprog, -, -⟩ := stepsKeepProgramAndParameters s t hstep
    exact ⟨by rw [State.fetch, hprog], hret, hcall⟩
  · obtain ⟨hpc, -⟩ := transfer_of_moves h
    obtain ⟨hpc', -⟩ := transfer_of_moves h'
    exact (hpc htr hne).trans (hpc' htr' hne).symm

end Sys2Proof.Machine
end

section
/-! SUPPORT. The memory operations (44_memory_ops.md): when the bounds checks pass, how a rule that
tests depth and then bounds ends, and the effects of a load and of a store. -/

namespace Sys2Proof.Machine

open Sys2Proof.Slice0

/-! ### The bounds checks (R63, R150) -/

theorem globalOk_of_lt {s : State} {n : Imm} (h : n.toNat < s.cfg.globalCount) :
    globalOk s n = true :=
  (globalOk_eq s n).trans (decide_eq_true h)

theorem globalOk_of_le {s : State} {n : Imm} (h : s.cfg.globalCount ≤ n.toNat) :
    globalOk s n = false :=
  (globalOk_eq s n).trans (decide_eq_false h.not_gt)

/-- A bad array number fails the check whatever the index (D34). -/
theorem elementOk_of_no_array {s : State} {n : Imm} (x : Word) (h : s.cfg.arrayCount ≤ n.toNat) :
    elementOk s n x = false :=
  (elementOk_eq s n x).trans (cellExists_no_array h)

/-- In an array that exists the check compares the whole index word with the capacity (D17). -/
theorem elementOk_of_array {s : State} {n : Imm} {cap : Nat} (x : Word)
    (h : s.cfg.arrayCaps[n.toNat]? = some cap) : elementOk s n x = decide (x.toNat < cap) :=
  (elementOk_eq s n x).trans (cellExists_array h)

/-! ### A load and a store, completed -/

/-- Words removed, one word pushed, a memory operation counted. -/
theorem completes_load (s : State) (k : Nat) (w : Word) :
    Completes s ((s.drop k).push w).countMemOp.complete
      { pc := s.pc, pops := k, pushed := some w, memOps := 1, ports := s.ports } :=
  { completes_push s k w with memOpCount := rfl }

/-- Words removed, one cell written, a memory operation counted. -/
theorem completes_store (s : State) (k : Nat) (a : Addr) (w : Word) :
    Completes s ((s.drop k).store a w).countMemOp.complete
      { pc := s.pc, pops := k, stored := some (a, w), memOps := 1, ports := s.ports } :=
  { completes_drop s k with
    pushed := nofun
    stored := by rintro _ _ ⟨rfl⟩; exact Memory.read_write_same _ _ _
    others := fun b _ hb =>
      read_store_other (s.drop k) w fun hba => hb w (congrArg (fun c => some (c, w)) hba.symm)
    memOpCount := rfl }

/-! ### Depth, then bounds (R155, R202) -/

section
variable {i : Instr} {k : Nat} {ok : Bool} {s u : State}
  (hi : exec i s = settle (need k s (check ok .memoryBounds s (.done u))))
include hi

/-- The depth is tested before the bounds, so whatever the operands. -/
theorem failsWith_of_shallow (h : s.sp < k) : FailsWith i s .stackUnderflow :=
  hi.trans (settle_need_of_lt h _)

theorem failsWith_of_bounds (h : k ≤ s.sp) (hok : ok = false) : FailsWith i s .memoryBounds := by
  rw [FailsWith, hi, need_of_le h]
  exact settle_check_of_false hok _ _ _

theorem completesWith_of_bounds {e : Effect} (hu : Completes s u.complete e) (h : k ≤ s.sp)
    (hok : ok = true) : CompletesWith i s e :=
  ⟨_, hi.trans (settle_eq_next.mpr (by rw [need_of_le h, hok, check_true, finish_done])), hu⟩

end

/-- How an access to an element ends: by the depth, then the array number, then the index. -/
theorem failsOrCompletes_of_element {i : Instr} {k : Nat} {n : Imm} {x : Word} {s u : State}
    {e : Effect}
    (hi : exec i s = settle (need k s (check (elementOk s n x) .memoryBounds s (.done u))))
    (hu : Completes s u.complete e) :
    (s.sp < k → FailsWith i s .stackUnderflow) ∧
    (k ≤ s.sp → s.cfg.arrayCount ≤ n.toNat → FailsWith i s .memoryBounds) ∧
    ∀ cap, s.cfg.arrayCaps[n.toNat]? = some cap →
      (k ≤ s.sp → cap ≤ x.toNat → FailsWith i s .memoryBounds) ∧
      (k ≤ s.sp → x.toNat < cap → CompletesWith i s e) := by
  refine ⟨failsWith_of_shallow hi, fun hsp hno => ?_, fun cap hcap => ?_⟩
  · exact failsWith_of_bounds hi hsp (elementOk_of_no_array x hno)
  · have hok := elementOk_of_array x hcap
    refine ⟨fun hsp hout => ?_, fun hsp hin => ?_⟩
    · exact failsWith_of_bounds hi hsp (hok.trans (decide_eq_false hout.not_gt))
    · exact completesWith_of_bounds hi hu hsp (hok.trans (decide_eq_true hin))

/-! ### The globals -/

/-- The bounds are tested first (R155), so whatever the room. -/
theorem failsWith_loadGlobal_of_le {s : State} {n : Imm} (h : s.cfg.globalCount ≤ n.toNat) :
    FailsWith (.loadGlobal n) s .memoryBounds :=
  settle_check_of_false (globalOk_of_le h) _ _ _

/-- Past the bounds LOAD_GLOBAL is a push of the global's word. -/
theorem exec_loadGlobal_of_lt {s : State} {n : Imm} (h : n.toNat < s.cfg.globalCount) :
    exec (.loadGlobal n) s =
      settle (room 1 s (.done (s.push (s.mem.read (.global n.toNat))).countMemOp)) := by
  rw [exec, execLoadGlobal, globalOk_of_lt h, check_true, globalCell_eq]

/-- Settles O32, by the two checks in their order. -/
theorem loadGlobalPushesTheGlobal : Obligations.LoadGlobalPushesTheGlobal := by
  refine ⟨fun _ _ => rfl, fun _ => rfl, fun s n =>
    ⟨failsWith_loadGlobal_of_le, fun hin hfull => ?_, fun hin hroom => ?_⟩⟩
  · exact (exec_loadGlobal_of_lt hin).trans (settle_room_of_lt hfull _)
  · refine ⟨_, ?_, completes_load s 0 (s.mem.read (.global n.toNat))⟩
    rw [exec_loadGlobal_of_lt hin, room_of_le hroom]
    rfl

/-- Settles O33: the rule tests depth, then bounds, then writes the cell its immediate names. -/
theorem storeGlobalWritesOneGlobal : Obligations.StoreGlobalWritesOneGlobal := by
  refine ⟨fun _ _ => rfl, fun _ => rfl, fun s n =>
    ⟨failsWith_of_shallow rfl, fun hsp hout => ?_, fun hsp hin => ?_⟩⟩
  · exact failsWith_of_bounds rfl hsp (globalOk_of_le hout)
  · rw [← globalCell_eq]
    exact completesWith_of_bounds rfl (completes_store s 1 _ _) hsp (globalOk_of_lt hin)

/-! ### The arrays -/

/-- Settles O34: an access to the element that the immediate and the top word name, a load. -/
theorem loadArrayPushesTheElement : Obligations.LoadArrayPushesTheElement := by
  refine ⟨fun _ _ => rfl, fun _ => rfl, fun s n => ?_⟩
  rw [← elementCell_eq]
  exact failsOrCompletes_of_element rfl (completes_load s 1 _)

/-- Settles O35: an access to the element that the immediate and the word under the top name, a
store. -/
theorem storeArrayWritesOneElement : Obligations.StoreArrayWritesOneElement := by
  refine ⟨fun _ _ => rfl, fun _ => rfl, fun s n => ?_⟩
  rw [← elementCell_eq]
  exact failsOrCompletes_of_element rfl (completes_store s 2 _ _)

end Sys2Proof.Machine
end

section
/-! SUPPORT. The I/O operations (45_io_ops.md): how an instruction ends that is one request behind
a stack check, and what one that completed with an answer on top has put out. -/

namespace Sys2Proof.Machine

open Sys2Proof.Slice0

/-! ### One request (R160, R167) -/

/-- `need(m)` in front of a deeper `need(n)` decides nothing. -/
theorem need_need_of_le {m n : Nat} (h : m ≤ n) (s : State) (k : Result) :
    need m s (need n s k) = need n s k := by
  by_cases hm : s.sp < m
  · rw [need_of_lt hm, need_of_lt (hm.trans_le h)]
  · exact need_of_le (Nat.not_lt.mp hm) _

section
variable {i : Instr} {s : State} {r : IoRequest} {writes : Word → State → State}
  {effect : Word → Ports → Effect}
  (hw : ∀ v, Completes s (writes v (s.asked r)).countIoOp.complete (effect v (s.ports.after r)))
include hw

/-- A rule that is a transaction ends by the answer: IoFailure over the operands, or the writes. -/
theorem asksThen_of_transact (hi : exec i s = settle (transact r s writes)) :
    AsksThen i s r effect := by
  intro a p hap
  obtain ⟨ha, rfl⟩ := answered_iff.mp hap
  refine ⟨?_, ?_⟩
  · rintro rfl
    rw [hi, transact_of_fail ha]
    exact settle_eq_next.mpr (asked_fail_eq s r _)
  · rintro v rfl
    rw [CompletesWith, hi, transact_of_ok ha]
    exact ⟨_, settle_eq_next.mpr (finish_done _), hw v⟩

/-- The operands are checked for before the request is issued (D9). -/
theorem failsOrAsks_of_need {n : Nat} (hi : exec i s = settle (need n s (transact r s writes))) :
    (s.sp < n → FailsWith i s .stackUnderflow) ∧ (n ≤ s.sp → AsksThen i s r effect) :=
  ⟨fun hshallow => hi.trans (settle_need_of_lt hshallow _),
    fun hdeep => asksThen_of_transact hw (hi.trans (congrArg settle (need_of_le hdeep _)))⟩

/-- The room for the answer is checked for before the request is issued (D9). -/
theorem failsOrAsks_of_room {n : Nat} (hi : exec i s = settle (room n s (transact r s writes))) :
    (s.cfg.stackCapacity < s.sp + n → FailsWith i s .stackOverflow) ∧
    (s.sp + n ≤ s.cfg.stackCapacity → AsksThen i s r effect) :=
  ⟨fun hfull => hi.trans (settle_room_of_lt hfull _),
    fun hroom => asksThen_of_transact hw (hi.trans (congrArg settle (room_of_le hroom _)))⟩

end

/-! ### The forms with operands -/

/-- Settles O37: each of the three is a request behind `need(2)`, its two words dropped on `ok`. -/
theorem portWritesSendTwoWords : Obligations.PortWritesSendTwoWords := by
  refine ⟨⟨fun _ _ => rfl, fun _ _ => rfl, fun _ _ => rfl⟩, ⟨rfl, rfl, rfl⟩, fun s i r hir => ?_⟩
  simp only [List.mem_cons, Prod.mk.injEq, List.not_mem_nil, or_false] at hir
  obtain ⟨rfl, rfl⟩ | ⟨rfl, rfl⟩ | ⟨rfl, rfl⟩ := hir <;>
    exact failsOrAsks_of_need (fun _ => completes_asked_drop s _ 2) rfl

/-- Settles O38: each of the four is a request behind `need(1)`, its word replaced on `ok`. -/
theorem portReadsPushTheAnswer : Obligations.PortReadsPushTheAnswer := by
  refine ⟨⟨fun _ _ => rfl, fun _ _ => rfl, fun _ _ => rfl, fun _ _ => rfl⟩, ⟨rfl, rfl, rfl, rfl⟩,
    fun s i r hir => ?_⟩
  simp only [List.mem_cons, Prod.mk.injEq, List.not_mem_nil, or_false] at hir
  obtain ⟨rfl, rfl⟩ | ⟨rfl, rfl⟩ | ⟨rfl, rfl⟩ | ⟨rfl, rfl⟩ := hir <;>
    exact failsOrAsks_of_need (fun v => completes_asked_push s _ 1 v) rfl

/-- Settles O39: a request behind `need(1)`, its word dropped on `ok`. -/
theorem delaySendsOneWord : Obligations.DelaySendsOneWord :=
  ⟨fun _ _ => rfl, rfl, fun s => failsOrAsks_of_need (fun _ => completes_asked_drop s _ 1) rfl⟩

/-! ### PRINTF (R176) -/

/-- The check for the count word is part of the check for the count word and the arguments. -/
theorem exec_printf_eq (k : Imm) (s : State) :
    exec (.printf k) s = settle (need (1 + printfCount s) s
      (transact (.printf (zext32 k) (printfCount s) (printfArgs s (printfCount s))) s
        fun _ t => t.drop (1 + printfCount s))) :=
  congrArg settle (need_need_of_le (Nat.le_add_right 1 _) s _)

/-- The arguments are the words under the count word, the deepest first. -/
theorem eq_printfArgs {s : State} {n : Nat} {args : List Word} (hlen : args.length = n)
    (h : ∀ (j : Nat) (hj : j < args.length), args[j] = s.peek (n - j)) :
    args = printfArgs s n :=
  List.ext_getElem (by rw [hlen, printfArgs_length]) fun j hj _ => by simp [h j hj, printfArgs]

/-- Settles O40: a request behind one check, as the count word's own adds nothing to it. -/
theorem printfSendsTheClampedArguments : Obligations.PrintfSendsTheClampedArguments := by
  refine ⟨fun _ _ => rfl, fun _ => rfl, ?_⟩
  rintro s k _ rfl
  obtain ⟨hfails, hasks⟩ := failsOrAsks_of_need
    (fun _ => completes_asked_drop s _ (1 + printfCount s)) (exec_printf_eq k s)
  refine ⟨fun hempty => hfails (hempty.trans_le (Nat.le_add_right 1 _)), hfails,
    fun hdeep args hlen hargs => ?_⟩
  rw [eq_printfArgs hlen hargs, ← zext32_eq_ofNat]
  exact hasks hdeep

/-! ### The ticks -/

/-- Settles O41: each of the two is a request behind `room(1)`, its answer pushed over no dropped
word. -/
theorem tickReadsPushTheAnswer : Obligations.TickReadsPushTheAnswer := by
  refine ⟨⟨fun _ _ => rfl, fun _ _ => rfl⟩, ⟨rfl, rfl⟩, fun s i r hir => ?_⟩
  simp only [List.mem_cons, Prod.mk.injEq, List.not_mem_nil, or_false] at hir
  obtain ⟨rfl, rfl⟩ | ⟨rfl, rfl⟩ := hir <;>
    exact failsOrAsks_of_room (fun v => completes_asked_push s _ 0 v) rfl

/-! ### Completed with an answer on top -/

/-- A rule that left no error passed the `need` it begins with. -/
theorem finish_of_need {n : Nat} {s t : State} {k : Result} (h : (need n s k).finish = t)
    (hok : t.lastError = .none) : k.finish = t := by
  rw [finish_need] at h
  split at h
  · subst h; cases hok
  · exact h

/-- A rule that left no error passed the `room` it begins with. -/
theorem finish_of_room {n : Nat} {s t : State} {k : Result} (h : (room n s k).finish = t)
    (hok : t.lastError = .none) : k.finish = t := by
  rw [finish_room] at h
  split at h
  · subst h; cases hok
  · exact h

/-- A transaction that left no error and pushed its answer put out the request with that word. -/
theorem trace_of_transact_push {r : IoRequest} {s t : State} (n : Nat)
    (h : (transact r s fun v u => (u.drop n).push v).finish = t) (hok : t.lastError = .none) :
    t.ports.trace = .request r (.ok (t.peek 0)) :: s.ports.trace := by
  rcases finish_transact_cases r s fun v u => (u.drop n).push v with ⟨-, e⟩ | ⟨v, hv, e⟩ <;>
    rw [h] at e <;> subst e
  · cases hok
  · have htop : (((s.asked r).drop n).push v).countIoOp.complete.peek 0 = v := peek_push_zero _ _
    simp [htop, hv]

theorem trace_of_portRead {i : Instr} {request : Word → IoRequest} {s t : State}
    (hi : exec i s = settle (portRead request s)) (h : exec i s = .next t)
    (hok : t.lastError = .none) :
    t.ports.trace = .request (request (s.peek 0)) (.ok (t.peek 0)) :: s.ports.trace :=
  trace_of_transact_push 1 (finish_of_need (settle_eq_next.mp (hi.symm.trans h)) hok) hok

theorem trace_of_portSample {i : Instr} {request : IoRequest} {s t : State}
    (hi : exec i s = settle (portSample request s)) (h : exec i s = .next t)
    (hok : t.lastError = .none) :
    t.ports.trace = .request request (.ok (t.peek 0)) :: s.ports.trace :=
  trace_of_transact_push 0 (finish_of_room (settle_eq_next.mp (hi.symm.trans h)) hok) hok

/-! ### The agent's contract (R163, R164) -/

/-- The contract bounds the answer put out last. -/
theorem answerAllowed_of_agentContract {r : IoRequest} {a : IoAnswer} {earlier : List Output}
    (h : AgentContract (.request r a :: earlier)) : answerAllowed r a = true :=
  h.1 r a List.mem_cons_self

/-- Under the contract the MILLIS answer put out last is at least the latest one before it. -/
theorem le_of_agentContract_millis {u v : Word} {earlier : List Output}
    (h : AgentContract (.request .millis (.ok v) :: earlier))
    (hu : latestTick .millis earlier = some u) : u.toNat ≤ v.toNat := by
  obtain ⟨-, hrise⟩ := h
  simp only [ticksRise, hu, true_or, if_true, Bool.and_eq_true, decide_eq_true_eq] at hrise
  exact hrise.1

/-- Settles O42: the word on top is the answer put out last, and the contract holds of it. -/
theorem agentContractBoundsTheAnswers : Obligations.AgentContractBoundsTheAnswers := by
  refine fun s t hok hcontract => ⟨fun i hi h => ?_, fun u h hu => ?_⟩
  · simp only [List.mem_cons, List.not_mem_nil, or_false] at hi
    obtain rfl | rfl := hi <;>
    · rw [trace_of_portRead rfl h hok] at hcontract
      simpa [answerAllowed] using answerAllowed_of_agentContract hcontract
  · rw [trace_of_portSample rfl h hok] at hcontract
    exact le_of_agentContract_millis hcontract hu

end Sys2Proof.Machine
end

section
/-! SUPPORT. The failures (60_exceptions.md): what a failed instruction leaves, the check that fails
first in each form and so the error it raises, the words that are no instruction, what a dispatch
puts out, and the ways out of run state Failed. -/

namespace Sys2Proof.Machine

open Sys2Proof.Slice0

/-! ### What a failed instruction leaves (R199 to R201) -/

/-- Settles O43, by the two ways an instruction fails: before any request, or at its request. -/
theorem failuresArePrecise : Obligations.FailuresArePrecise := by
  intro i s t h herr
  rcases exec_cases h with ⟨u, rfl, -⟩ | ⟨e, rfl, -, hopcode, hload, -⟩ | ⟨r, -, rfl⟩
  · exact absurd rfl herr
  · exact ⟨fail_eq_failedState s e, fun _ => rfl, hopcode, hload⟩
  · exact ⟨asked_fail_eq s r _, fun hio => absurd rfl hio, by simp, by simp⟩

/-- A failure keeps the stack and every cell (R201, D8). -/
theorem stack_eq_of_failure {i : Instr} {s t : State} {e : ErrorCode} (h : exec i s = .next t)
    (he : t.lastError = e) (hne : e ≠ .none) : t.sp = s.sp ∧ t.mem = s.mem := by
  obtain ⟨ht, -⟩ := failuresArePrecise i s t h (he ▸ hne)
  rw [ht]
  exact ⟨rfl, rfl⟩

/-! ### The error a check leaves -/

@[simp] theorem lastError_finish_need (n : Nat) (s : State) (k : Result) :
    (need n s k).finish.lastError =
      if s.sp < n then .stackUnderflow else k.finish.lastError := by
  rw [finish_need]; split <;> rfl

@[simp] theorem lastError_finish_room (n : Nat) (s : State) (k : Result) :
    (room n s k).finish.lastError =
      if s.cfg.stackCapacity < s.sp + n then .stackOverflow else k.finish.lastError := by
  rw [finish_room]; split <;> rfl

@[simp] theorem lastError_finish_check (ok : Bool) (e : ErrorCode) (s : State) (k : Result) :
    (check ok e s k).finish.lastError = if ok = false then e else k.finish.lastError := by
  cases ok <;> rfl

@[simp] theorem lastError_finish_transact (r : IoRequest) (s : State)
    (writes : Word → State → State) :
    (transact r s writes).finish.lastError =
      if s.ports.answer r = .fail then .ioFailure else .none := by
  rcases finish_transact_cases r s writes with ⟨ha, e⟩ | ⟨v, ha, e⟩ <;> rw [ha, e] <;> rfl

/-! ### The check that fails first (R192 to R197, R202) -/

/-- The words an operation needs on the stack (R193). -/
def State.wordsNeeded (s : State) : Operation → Nat
  | .pop | .jmpTrue | .jmpFalse | .ret | .storeGlobal | .loadArray | .digitalRead | .analogRead
  | .delay | .buttonPressed | .buttonReleased => 1
  | .add | .sub | .mul | .div | .eq | .ne | .lt | .gt | .le | .ge | .storeArray | .digitalWrite
  | .analogWrite | .pinMode => 2
  | .printf => 1 + printfCount s
  | .halt | .push | .call | .millis | .micros | .jmp | .loadGlobal => 0

/-- The operations that push a word and remove none, and so need room (R192). -/
@[simp] def pushingOperations : List Operation := [.push, .call, .loadGlobal, .millis, .micros]

/-- The eleven I/O operations (R160, R198). -/
@[simp] def ioOperations : List Operation :=
  [.digitalWrite, .digitalRead, .analogWrite, .analogRead, .delay, .buttonPressed,
    .buttonReleased, .pinMode, .printf, .millis, .micros]

/-- The cell the instruction names by an index, if any, exists (R195). -/
def State.cellValid (s : State) : Instr → Bool
  | .loadGlobal n | .storeGlobal n => globalOk s n
  | .loadArray n => elementOk s n (s.peek 0)
  | .storeArray n => elementOk s n (s.peek 1)
  | _ => true

/-- The operation jumps, if it completes (R140). -/
def State.jumps (s : State) : Operation → Bool
  | .jmp | .call | .ret => true
  | .jmpTrue => isNonZero (s.peek 0)
  | .jmpFalse => isZero (s.peek 0)
  | _ => false

/-- Where a transfer goes: RET to the word on top, every other to its immediate (R141 to R145). -/
def State.target (s : State) (i : Instr) : Word :=
  if i.operation = .ret then s.peek 0 else zext32 i.immediate

/-- The error of the first check that fails. One order does for all forms (R202): depth, bounds,
room, then divisor and target. -/
def State.checkError (s : State) (i : Instr) : ErrorCode :=
  if s.sp < s.wordsNeeded i.operation then .stackUnderflow
  else if s.cellValid i = false then .memoryBounds
  else if i.operation ∈ pushingOperations ∧ s.cfg.stackCapacity < s.sp + 1 then .stackOverflow
  else if i = .div ∧ s.peek 0 = 0 then .divisionByZero
  else if s.jumps i.operation = true ∧ targetOk s (s.target i) = false then .invalidJump
  else .none

/-- A rule that is a request behind one check leaves the check's error, else IoFailure or none. -/
theorem lastError_of_transact {i : Instr} {s t : State} {r : IoRequest}
    {writes : Word → State → State} {fails : Prop} [Decidable fails] {e : ErrorCode}
    (hio : i.operation ∈ ioOperations)
    (hrule : t.lastError = if fails then e else (transact r s writes).finish.lastError)
    (hcheck : s.checkError i = if fails then e else .none) :
    t.lastError = s.checkError i ∨
      (s.checkError i = .none ∧ i.operation ∈ ioOperations ∧ t.lastError = .ioFailure) := by
  by_cases hfails : fails
  · rw [if_pos hfails] at hrule hcheck
    exact .inl (hrule.trans hcheck.symm)
  · rw [if_neg hfails] at hrule hcheck
    rw [lastError_finish_transact] at hrule
    split at hrule
    · exact .inr ⟨hcheck, hio, hrule⟩
    · exact .inl (hrule.trans hcheck.symm)

/-- An instruction raises the error of its first check that fails; one whose checks pass completes,
unless it is an I/O operation and its request fails. -/
theorem lastError_of_exec {i : Instr} {s t : State} (h : exec i s = .next t) :
    t.lastError = s.checkError i ∨
      (s.checkError i = .none ∧ i.operation ∈ ioOperations ∧ t.lastError = .ioFailure) := by
  cases i with
  | digitalWrite | analogWrite | pinMode | digitalRead | analogRead | buttonPressed
    | buttonReleased | delay =>
    obtain rfl := settle_eq_next.mp h
    exact lastError_of_transact (by simp [Instr.operation]) (lastError_finish_need ..) (by
      simp [State.checkError, State.wordsNeeded, State.cellValid, State.jumps, Instr.operation])
  | printf =>
    rw [exec_printf_eq] at h
    obtain rfl := settle_eq_next.mp h
    exact lastError_of_transact (by simp [Instr.operation]) (lastError_finish_need ..) (by
      simp [State.checkError, State.wordsNeeded, State.cellValid, State.jumps, Instr.operation])
  | millis | micros =>
    obtain rfl := settle_eq_next.mp h
    exact lastError_of_transact (by simp [Instr.operation]) (lastError_finish_room ..) (by
      simp [State.checkError, State.wordsNeeded, State.cellValid, State.jumps, Instr.operation])
  | div =>
    obtain rfl := settle_eq_next.mp h
    left
    by_cases hsp : s.sp < 2 <;>
      simp [State.checkError, State.wordsNeeded, State.cellValid, State.jumps, Instr.operation,
        binary, hsp]
  | _ =>
    obtain rfl := settle_eq_next.mp h
    left
    simp [State.checkError, State.wordsNeeded, State.cellValid, State.jumps, State.target,
      Instr.operation, Instr.immediate, binary, compareWords, conditional]

/-- A failed check leaves its error, and nothing else leaves it. -/
theorem lastError_eq_iff {i : Instr} {s t : State} {e : ErrorCode} (h : exec i s = .next t)
    (hnone : e ≠ .none) (hio : e ≠ .ioFailure) : t.lastError = e ↔ s.checkError i = e := by
  rcases lastError_of_exec h with herr | ⟨hpass, -, herr⟩
  · rw [herr]
  · rw [herr, hpass]
    exact iff_of_false hio.symm hnone.symm

section
variable {s : State} {i : Instr}

theorem checkError_eq_stackUnderflow_iff :
    s.checkError i = .stackUnderflow ↔ s.sp < s.wordsNeeded i.operation := by
  unfold State.checkError
  split_ifs <;> simp_all

theorem checkError_eq_memoryBounds_iff :
    s.checkError i = .memoryBounds ↔
      s.wordsNeeded i.operation ≤ s.sp ∧ s.cellValid i = false := by
  unfold State.checkError
  split_ifs <;> simp_all

theorem checkError_eq_stackOverflow_iff :
    s.checkError i = .stackOverflow ↔
      s.wordsNeeded i.operation ≤ s.sp ∧ s.cellValid i = true ∧
        i.operation ∈ pushingOperations ∧ s.cfg.stackCapacity < s.sp + 1 := by
  unfold State.checkError
  split_ifs <;> simp_all

theorem checkError_eq_divisionByZero_iff :
    s.checkError i = .divisionByZero ↔
      s.wordsNeeded i.operation ≤ s.sp ∧ s.cellValid i = true ∧
        (i.operation ∈ pushingOperations → s.sp + 1 ≤ s.cfg.stackCapacity) ∧
        i = .div ∧ s.peek 0 = 0 := by
  unfold State.checkError
  split_ifs <;> simp_all

theorem checkError_eq_invalidJump_iff :
    s.checkError i = .invalidJump ↔
      targetOk s (s.target i) = false ∧ s.wordsNeeded i.operation ≤ s.sp ∧
        s.cellValid i = true ∧
        (i.operation ∈ pushingOperations → s.sp + 1 ≤ s.cfg.stackCapacity) ∧
        ¬ (i = .div ∧ s.peek 0 = 0) ∧ s.jumps i.operation = true := by
  unfold State.checkError
  cases targetOk s (s.target i) <;> split_ifs <;> simp_all

end

/-- Settles O45, by the depth check: the words each operation needs. -/
theorem stackUnderflowExactlyWhen : Obligations.StackUnderflowExactlyWhen := by
  intro i s t h
  refine ⟨fun he => stack_eq_of_failure h he (by decide), ?_⟩
  rw [lastError_eq_iff h (by decide) (by decide), checkError_eq_stackUnderflow_iff]
  cases i.operation with
  | printf => simp +contextual [State.wordsNeeded, printfCount]
  | _ => simp [State.wordsNeeded]

/-- Settles O46, by the bounds check, which comes behind the depth check and decides for the memory
operations only. -/
theorem memoryBoundsExactlyWhen : Obligations.MemoryBoundsExactlyWhen := by
  intro i s t h
  refine ⟨fun he => stack_eq_of_failure h he (by decide), ?_⟩
  rw [lastError_eq_iff h (by decide) (by decide), checkError_eq_memoryBounds_iff]
  cases i with
  | loadGlobal | storeGlobal | loadArray | storeArray =>
    simp [Instr.operation, State.wordsNeeded, State.cellValid, globalOk_eq, elementOk_eq]
  | _ => simp [State.cellValid]

/-- Settles O44, by the room check, which comes behind the bounds check and decides for the pushing
operations only. -/
theorem stackOverflowExactlyWhen : Obligations.StackOverflowExactlyWhen := by
  intro i s t h
  refine ⟨fun he => stack_eq_of_failure h he (by decide), ?_⟩
  rw [lastError_eq_iff h (by decide) (by decide), checkError_eq_stackOverflow_iff]
  cases i with
  | loadGlobal =>
    simp [Instr.operation, State.wordsNeeded, State.cellValid, globalOk_eq, and_comm]
  | push | call | millis | micros => simp [Instr.operation, State.wordsNeeded, State.cellValid]
  | _ => simp [Instr.operation]

/-- Settles O47, by the divisor check behind the depth check. -/
theorem divisionByZeroExactlyWhen : Obligations.DivisionByZeroExactlyWhen := by
  intro i s t h
  rw [lastError_eq_iff h (by decide) (by decide), checkError_eq_divisionByZero_iff]
  constructor
  · rintro ⟨hsp, -, -, rfl, hb⟩
    exact ⟨rfl, hsp, hb⟩
  · rintro ⟨rfl, hsp, hb⟩
    exact ⟨hsp, rfl, by simp [Instr.operation], rfl, hb⟩

/-- Settles O48, by the target check, which is made of the transfers that are taken. -/
theorem invalidJumpExactlyWhen : Obligations.InvalidJumpExactlyWhen := by
  intro i s t h
  rw [lastError_eq_iff h (by decide) (by decide), checkError_eq_invalidJump_iff]
  cases i with
  | jmp | call | jmpTrue | jmpFalse =>
    simp [Instr.operation, State.wordsNeeded, State.cellValid, State.jumps, State.target,
      Instr.immediate, targetOk_zext32, isZero, isNonZero]
  | ret =>
    simp [Instr.operation, State.wordsNeeded, State.cellValid, State.jumps, State.target, targetOk,
      and_comm]
  | _ => simp [Instr.operation, State.jumps]

/-! ### The request of an I/O instruction (R65, R160, R198) -/

theorem checkError_ne_ioFailure (s : State) (i : Instr) : s.checkError i ≠ .ioFailure := by
  unfold State.checkError
  split_ifs <;> simp

/-- An instruction puts out nothing, or one request, whose failure is IoFailure. -/
theorem trace_of_exec {i : Instr} {s t : State} (h : exec i s = .next t) :
    (t.ports.trace = s.ports.trace ∧ t.lastError ≠ .ioFailure) ∨
      ∃ r a, t.ports.trace = .request r a :: s.ports.trace ∧
        (t.lastError = .ioFailure ↔ a = .fail) := by
  rcases exec_cases h with
    ⟨u, rfl, -, -, -, -, -, -, -, -, -, hports | ⟨r, v, ha, hports⟩⟩ | ⟨e, rfl, -, -, -, hio⟩ |
      ⟨r, ha, rfl⟩
  · exact .inl ⟨congrArg Ports.trace hports, by simp⟩
  · exact .inr ⟨r, .ok v, by simp [hports, ha], by simp⟩
  · exact .inl ⟨rfl, hio⟩
  · exact .inr ⟨r, .fail, by simp [ha], by simp⟩

/-- Settles O49: the error is no check's, so the form is an I/O operation; and it is left exactly
where the one request put out was answered `fail`. -/
theorem ioFailureExactlyWhen : Obligations.IoFailureExactlyWhen := by
  refine fun i s t h => ⟨fun herr => ?_, ?_⟩
  · rcases lastError_of_exec h with hcheck | ⟨-, hio, -⟩
    · exact absurd (hcheck.symm.trans herr) (checkError_ne_ioFailure s i)
    · exact hio
  · rcases trace_of_exec h with ⟨htrace, herr⟩ | ⟨r, a, htrace, herr⟩ <;> rw [htrace]
    · simpa using herr
    · simp [herr]

/-! ### The InstructionEvent of a dispatch (R215) -/

/-- A dispatch puts out at most one request (R65). -/
theorem requests_of_dispatch {w : Word} {s t : State} (h : dispatch w s = .next t) :
    ∃ requests : List (IoRequest × IoAnswer), requests.length ≤ 1 ∧
      t.ports.trace = requests.map (fun q => Output.request q.1 q.2) ++ s.ports.trace := by
  rcases dispatch_cases h with ⟨i, -, hexec⟩ | rfl
  · rcases trace_of_exec hexec with ⟨htrace, -⟩ | ⟨r, a, htrace, -⟩
    · exact ⟨[], by simp, htrace⟩
    · exact ⟨[(r, a)], by simp, htrace⟩
  · exact ⟨[], by simp, rfl⟩

/-- With no RUN in progress, a step in Ready that fetches a word is its dispatch and its event. -/
theorem step_fetch_idle {s v : State} {w : Word} (hl : s.progLoaded = true)
    (hh : s.halted = false) (hr : s.running = false) (hf : s.prog[s.pc.toNat]? = some w)
    (hv : dispatch w s.advance = .next v) :
    step s = .next (v.emit (instructionEvent s.pc w)) := by
  obtain ⟨-, -, -, hrun⟩ := dispatch_frame hv
  have hidle : (v.emit (instructionEvent s.pc w)).running = false := hrun.trans hr
  rw [step_ready hl hh, cycle_fetch hf, hv, onNext_next, onNext_next, afterCycle_idle hidle]

/-- Settles O13: the event comes on top of what the dispatch put out. -/
theorem eachDispatchEmitsOneEvent : Obligations.EachDispatchEmitsOneEvent := by
  intro s t w hl hh hr hf h
  obtain ⟨v, hv⟩ := dispatch_next w s.advance
  cases (step_fetch_idle hl hh hr hf hv).symm.trans h
  obtain ⟨requests, hone, htrace⟩ := requests_of_dispatch hv
  exact ⟨requests, hone, congrArg (instructionEvent s.pc w :: ·) htrace⟩

/-! ### A word that is no instruction (R88, R194, R203) -/

theorem operationAt_eq_none_iff {c : Config} {b : Byte} :
    c.operationAt b = none ↔ ∀ o, (b, o) ∉ c.opcodeMap := by
  rw [Config.operationAt, List.lookup_eq_none_iff]
  simp only [bne_iff_ne]
  refine ⟨fun h o ho => h _ ho rfl, ?_⟩
  rintro h ⟨b', o⟩ ho rfl
  exact h o ho

/-- A word whose opcode the map does not list fails with InvalidOpcode (R194). -/
theorem dispatch_of_none {s : State} {w : Word} (h : s.cfg.operationAt (unpack w).opcode = none) :
    dispatch w s = .next (s.fail .invalidOpcode) :=
  dispatch_error (decode_eq_invalidOpcode_iff.mpr h)

/-- Settles O9: a word whose opcode is listed is an instruction, and none raises the error. -/
theorem invalidOpcodeExactlyWhen : Obligations.InvalidOpcodeExactlyWhen := by
  intro s t w h
  rw [← operationAt_eq_none_iff]
  cases ho : s.cfg.operationAt (unpack w).opcode with
  | none =>
    cases (dispatch_of_none ho).symm.trans h
    exact iff_of_true rfl rfl
  | some o =>
    have hexec := (dispatch_ok (decodeFields_of_some ho)).symm.trans h
    refine iff_of_false (fun herr => ?_) nofun
    obtain ⟨-, -, hopcode, -⟩ := failuresArePrecise _ s t hexec (by simp [herr])
    exact hopcode herr

/-- Settles O8: the dispatch of a word that is no instruction, and the fetch that finds none. -/
theorem stepWithoutAnInstructionFails : Obligations.StepWithoutAnInstructionFails := by
  refine ⟨fun s w hl hh hr hf hunlisted => ?_, fun s hl hh hr hend => ?_⟩
  · have hnone := operationAt_eq_none_iff.mpr hunlisted
    exact step_fetch_idle hl hh hr hf (dispatch_of_none (s := s.advance) hnone)
  · rw [step_ready hl hh, cycle_fetch_none (fetch_none hend), onNext_next,
      afterCycle_idle (s := s.failNoInstr) hr]
    rfl

/-! ### After a failure (R205, R206) -/

/-- Settles O10, by induction on the number of steps. -/
theorem haltedMachineStaysAsItIs : Obligations.HaltedMachineStaysAsItIs := by
  intro k s hl hh
  induction k with
  | zero => rfl
  | succ k ih =>
    have hstep : core.step s = .next s := step_halted hl hh
    simp only [Host.Core.run, hstep]
    exact ih

theorem runState_eq_failed_iff {s : State} :
    s.runState = .failed ↔ s.progLoaded = true ∧ s.halted = true ∧ s.lastError ≠ .none := by
  unfold State.runState
  split_ifs <;> simp_all

theorem startsOver_hostReset (s : State) : StartsOver s.hostReset :=
  ⟨rfl, rfl, rfl, rfl, fun _ => rfl⟩

theorem startsOver_install (s : State) (ws : List Word) : StartsOver (s.install ws) :=
  ⟨rfl, rfl, rfl, rfl, Memory.read_clearStack_stack s.mem⟩

theorem startsOver_powerOn (c : Config) (p : Ports) : StartsOver (State.powerOn c p) :=
  ⟨rfl, rfl, rfl, rfl, fun _ => rfl⟩

/-- A block with a program that starts over is Ready (R42). -/
theorem runState_of_startsOver {t : State} (hl : t.progLoaded = true) (h : StartsOver t) :
    t.runState = .ready := by
  obtain ⟨hh, -⟩ := h
  simp [State.runState, hl, hh]

/-- A LOAD is accepted and installs its words, or is rejected (R233, R234). -/
theorem hostLoad_cases (words : Option (List Word)) (s : State) :
    (StartsOverCommand (.load words) s ∧
      ∃ ws, hostLoad words s = (s.install ws, .success)) ∨
    (¬ StartsOverCommand (.load words) s ∧ hostLoad words s = (s.rejectCommand, .failure)) := by
  cases words with
  | none => exact .inr ⟨by simp [StartsOverCommand], rfl⟩
  | some ws =>
    by_cases hws : ws.length = 0 ∨ s.cfg.progMax < ws.length
    · exact .inr ⟨by simp [StartsOverCommand]; omega, hostLoad_rejected hws⟩
    · obtain ⟨h1, h2⟩ := not_or.mp hws
      have h1 := Nat.one_le_iff_ne_zero.mpr h1
      have h2 := not_lt.mp h2
      exact .inl ⟨.inr ⟨ws, h1, h2, rfl⟩, ws, hostLoad_accepted h1 h2⟩

/-- STEP and RUN do nothing on a halted block (R206, R236, R237). -/
theorem commandOn_of_halted {s : State} {c : Command} (hl : s.progLoaded = true)
    (hh : s.halted = true) (hc : c = .step ∨ c = .run) :
    commandOn c s = .next (.on s, .notExecuted) := by
  obtain rfl | rfl := hc
  · simp [commandOn, step_halted hl hh, moveReport, hl, hh]
  · simp [commandOn, hostRun, hl, hh]

/-- Settles O59: a Failed block is halted, so STEP and RUN leave it as it is, and of the other
commands a rejected LOAD changes no more than the error. -/
theorem failedIsLeftByResetLoadOrPowerOn : Obligations.FailedIsLeftByResetLoadOrPowerOn := by
  refine ⟨fun s t hs h => ?step, fun s t c r hs hne h => ?command, fun cfg p t r h => ?powerOn⟩
  case step =>
    obtain ⟨hl, hh, -⟩ := runState_eq_failed_iff.mp hs
    cases (step_halted hl hh).symm.trans h
    exact hs
  case powerOn =>
    cases h
    exact startsOver_powerOn _ _
  case command =>
    obtain ⟨hl, hh, -⟩ := runState_eq_failed_iff.mp hs
    cases hr : s.running with
    | true => simp [hostCommand, hr] at h
    | false =>
      rw [hostCommand_on hr] at h
      cases c with
      | powerOn | teardown => cases h
      | runProgram words => exact absurd rfl (hne words)
      | reset =>
        cases h
        have hso := startsOver_hostReset s
        exact ⟨fun _ => ⟨runState_of_startsOver hl hso, hso⟩, fun hno => absurd (.inl rfl) hno⟩
      | load words =>
        rcases hostLoad_cases words s with ⟨hcmd, ws, hload⟩ | ⟨hcmd, hload⟩ <;>
          rw [commandOn, hload] at h <;> cases h
        · have hso := startsOver_install s ws
          exact ⟨fun _ => ⟨runState_of_startsOver rfl hso, hso⟩, fun hno => absurd hcmd hno⟩
        · exact ⟨fun hyes => absurd hyes hcmd,
            fun _ => runState_eq_failed_iff.mpr ⟨hl, hh, by simp⟩⟩
      | step | run =>
        cases (commandOn_of_halted hl hh (by simp)).symm.trans h
        exact ⟨by simp [StartsOverCommand], fun _ => hs⟩

end Sys2Proof.Machine
end

section
/-! SUPPORT. The host's commands (70_reset_and_hazards.md): a turn of RUN beside the step of STEP,
what STEP and RUN do in each run state, and the commands that have no behaviour. -/

namespace Sys2Proof.Machine

/-! ### A turn of RUN (R216, R237) -/

/-- With no RUN in progress, the move of a Ready machine is its cycle and nothing after it. -/
theorem step_ready_idle {s : State} (hl : s.progLoaded = true) (hh : s.halted = false)
    (hr : s.running = false) : step s = cycle s := by
  obtain ⟨u, hu⟩ := cycle_next s
  obtain ⟨-, -, -, hrun⟩ := cycle_frame hu
  rw [step_ready hl hh, hu, onNext_next, afterCycle_idle (hrun.trans hr)]

/-- The end of a turn of RUN: the RUN is over when the machine halted, else it goes on. -/
theorem afterCycle_running {s : State} (hr : s.running = true) :
    s.afterCycle = if s.halted then s.endRun else { s with running := true } := by
  split
  · next hh => exact afterCycle_halted hr hh
  · next hh => rw [afterCycle_going (Bool.eq_false_of_not_eq_true hh), ← hr]

/-- Settles O12: the cycle is the same with and without a RUN in progress (`cycle_running`), and
the two ends of a turn are those of `afterCycle_running`. -/
theorem runTurnIsStepThenCompletion : Obligations.RunTurnIsStepThenCompletion := by
  intro s t hr hl hh h
  obtain ⟨u, hu⟩ := cycle_next s
  obtain ⟨-, -, -, hrun⟩ := cycle_frame hu
  have hidle : step { s with running := false } = .next { u with running := false } := by
    rw [step_ready_idle (s := { s with running := false }) hl hh rfl, cycle_running, hu,
      onNext_next]
  cases hidle.symm.trans h
  rw [step_ready hl hh, hu, onNext_next]
  rw [afterCycle_running (hrun.trans hr)]
  rfl

/-! ### LOAD (R233, R234) -/

/-- Settles O57: an accepted LOAD is `install`, any other `rejectCommand`. -/
theorem loadInstallsOrRejects : Obligations.LoadInstallsOrRejects := by
  refine fun s words hr => ⟨?accepted, fun h => ?rejected⟩
  case accepted =>
    rintro ws rfl h1 h2
    refine ⟨s.install ws, ?_, rfl, rfl, rfl, rfl, Memory.read_clearStack_stack s.mem,
      fun _ => Memory.read_clearStack_other s.mem rfl,
      fun _ _ => Memory.read_clearStack_other s.mem rfl, rfl, rfl, rfl, rfl, rfl, rfl, hr, rfl⟩
    rw [hostCommand_on hr, commandOn, hostLoad_accepted h1 h2]
  case rejected =>
    have hload : hostLoad words s = (s.rejectCommand, .failure) := by
      obtain rfl | ⟨ws, rfl, hws⟩ := h
      · exact hostLoad_absent s
      · exact hostLoad_rejected hws
    rw [hostCommand_on hr, commandOn, hload]
    rfl

/-! ### STEP and RUN in each run state (R236 to R238) -/

/-- STEP is one step and its report (R236). -/
theorem commandOn_step {s t : State} (h : step s = .next t) :
    commandOn .step s = .next (.on t, moveReport s t) := by
  simp only [commandOn, h]

/-- A move of a Ready machine with no RUN in progress reports a success exactly when it left no
error (R22, R200, R236). -/
theorem moveReport_ready_idle {s t : State} (hl : s.progLoaded = true) (hh : s.halted = false)
    (ht : t.running = false) :
    moveReport s t = if t.lastError = .none then .success else .failure := by
  simp [moveReport, hl, hh, ht]

/-- STEP and RUN are rejected in Empty (R236, R237). -/
theorem commandOn_of_empty {s : State} {c : Command} (hl : s.progLoaded = false)
    (hc : c = .step ∨ c = .run) : commandOn c s = .next (.on s.rejectCommand, .failure) := by
  obtain rfl | rfl := hc
  · simp [commandOn_step (step_empty hl), moveReport, hl]
  · simp [commandOn, hostRun, hl]

/-- In Ready, RUN begins (R237). -/
theorem hostRun_ready {s : State} (hl : s.progLoaded = true) (hh : s.halted = false) :
    hostRun s = ({ s with running := true }, .inProgress) := by
  simp [hostRun, hl, hh]

/-- A LOAD leaves no RUN in progress where there was none. -/
theorem running_hostLoad (words : Option (List Word)) (s : State) :
    (hostLoad words s).1.running = s.running := by
  rcases hostLoad_cases words s with ⟨-, ws, hload⟩ | ⟨-, hload⟩ <;> rw [hload] <;> rfl

/-- RUN_PROGRAM is LOAD and, if that reported a success, RUN (R238). -/
theorem hostRunProgram_eq (words : Option (List Word)) (s : State) :
    hostRunProgram words s =
      if (hostLoad words s).2 = .success then hostRun (hostLoad words s).1
      else hostLoad words s := by
  rcases hostLoad_cases words s with ⟨-, ws, hload⟩ | ⟨-, hload⟩ <;>
    simp [hostRunProgram, hload]

/-- Settles O58, command by command and run state by run state. -/
theorem stepAndRunReport : Obligations.StepAndRunReport := by
  refine ⟨fun s hr => ?step, fun s hr => ?run, fun s t words r hr h => ?runProgram⟩
  case step =>
    rw [hostCommand_on hr]
    refine ⟨fun hl => commandOn_of_empty hl (.inl rfl),
      fun hl hh => commandOn_of_halted hl hh (.inl rfl), fun hl hh => ?_⟩
    obtain ⟨t, ht⟩ := cycle_next s
    obtain ⟨-, -, -, hrun⟩ := cycle_frame ht
    have hstep : step s = .next t := (step_ready_idle hl hh hr).trans ht
    refine ⟨t, hstep, ?_⟩
    rw [commandOn_step hstep, moveReport_ready_idle hl hh (hrun.trans hr)]
  case run =>
    rw [hostCommand_on hr]
    refine ⟨fun hl => commandOn_of_empty hl (.inr rfl),
      fun hl hh => commandOn_of_halted hl hh (.inr rfl), fun hl hh => ?_⟩
    rw [commandOn, hostRun_ready hl hh]
  case runProgram =>
    rw [hostCommand_on hr] at h
    cases h
    rw [hostCommand_on hr, hostCommand_on ((running_hostLoad words s).trans hr)]
    simp only [commandOn, hostRunProgram_eq]
    split <;> rfl

/-! ### POWER_ON and RESET (R230 to R232) -/

/-- Settles O56: the fields of `State.powerOn` and of `State.hostReset`. -/
theorem powerOnAndResetValues : Obligations.PowerOnAndResetValues := by
  refine ⟨⟨rfl, rfl, fun _ => rfl, rfl, rfl, rfl, rfl, rfl, rfl, rfl⟩, fun s hr => ?_⟩
  have hreset : hostCommand .reset (.on s) = .next (.on s.hostReset, .nothing) :=
    hostCommand_on hr
  exact ⟨s.hostReset, hreset, rfl, rfl, fun _ => rfl, rfl, rfl, rfl, rfl, rfl, rfl, rfl, rfl, hr,
    rfl⟩

/-! ### Commands out of place (R242, R243, R246) -/

/-- While a RUN is in progress no command has a behaviour (R246). -/
theorem hostCommand_running {s : State} (c : Command) (h : s.running = true) :
    hostCommand c (.on s) = .fault .overlappingCommand := by
  simp only [hostCommand, h, if_true]

/-- A block that is off knows only POWER_ON (R242, R243). -/
theorem hostCommand_off {c : Command} (h : c ≠ .powerOn) (cfg : Config) (ports : Ports) :
    hostCommand c (.off cfg ports) = .fault .illegalCommand := by
  cases c with
  | powerOn => exact absurd rfl h
  | load _ | reset | step | run | runProgram _ | teardown => rfl

/-- Settles O60, by the two states of the block in which a command is out of place. -/
theorem commandsOutOfPlaceStop : Obligations.CommandsOutOfPlaceStop :=
  ⟨fun c _ => hostCommand_running c, fun _ cfg ports h => hostCommand_off h cfg ports⟩

end Sys2Proof.Machine
end
